-- ==== Sys2Proof/Word.lean ====
section
/-! DEFINITION. Sys2Proof/Word.lean: the two bit-vector types of the PCB. -/

namespace Sys2Proof

/-- A `u8` of the spec (00_scope.md R7). -/
abbrev Byte := BitVec 8

/-- A `u32` of the spec: a register, a key word, a command word, a ring word (00_scope.md R7). -/
abbrev Word := BitVec 32

end Sys2Proof
end

