-- ==== Sys2Proof/Syntax.lean ====
section
/-! DEFINITION. Sys2Proof/Syntax.lean: the commands of PCB command set version 1, one constructor per row of
spec/opcode_table.json (30_encoding.md R122). Operands are not in the word (R120): only SEL is a field. -/

namespace Sys2Proof

/-- Command bit 8, SEL: the counter of CTRINC and CTRRST; `.E` is 0, `.D` is 1 (30_encoding.md R120). -/
inductive CtrSel where
  | ectr
  | dctr
deriving DecidableEq, Repr

/-- A command (30_encoding.md R122). -/
inductive Instr where
  | nop
  | hdrsize
  | declen
  | pkttype
  | pktsub
  | wrhdr
  | encsize
  | decsize
  | shift
  | smencb
  | smdecb
  | smencf
  | smdecf
  | xorenc
  | xordec
  | ctrinc (sel : CtrSel)
  | ctrrst (sel : CtrSel)
  | strfeed
  | strnext
  | strclose
  | strreset
deriving DecidableEq, Repr

end Sys2Proof
end

