-- ==== Sys2Proof/WellFormed.lean ====
section
/-! DEFINITION. Sys2Proof/WellFormed.lean: which command words are legal (30_encoding.md R124). A term of `Instr` has no
ill-formed value: its only field is the two-valued SEL. What can be ill-formed is a command WORD, so the checks stand on
words, each under a name of its own. -/

namespace Sys2Proof

/-- The OP values of 30_encoding.md R122. -/
def definedOps : List Nat :=
  [0x00, 0x01, 0x02, 0x03, 0x04, 0x05, 0x08, 0x09, 0x0A, 0x10, 0x11, 0x12, 0x13, 0x18, 0x19, 0x20, 0x21,
   0x30, 0x31, 0x32, 0x33]

/-- First condition of 30_encoding.md R124: w[7:0] is an OP of R122. -/
def opDefined (w : Word) : Bool := definedOps.contains (w.extractLsb' 0 8).toNat

/-- Second condition of 30_encoding.md R124: w[31:9] = 0. -/
def mbzZero (w : Word) : Bool := w.extractLsb' 9 23 = 0#23

/-- Third condition of 30_encoding.md R124: w[8] = 0 unless OP is 0x20 or 0x21. -/
def selAllowed (w : Word) : Bool :=
  w.extractLsb' 8 1 = 0#1 || (w.extractLsb' 0 8 = 0x20#8 || w.extractLsb' 0 8 = 0x21#8)

/-- A command word is legal iff all three hold (30_encoding.md R124). -/
def commandWordLegal (w : Word) : Bool := opDefined w && mbzZero w && selAllowed w

/-- Every term of `Instr` is well formed: the type admits no other (log entry 22). -/
def Instr.wellFormed (_ : Instr) : Bool := true

end Sys2Proof
end

