-- ==== Sys2Proof/Decode.lean ====
section
/-! DEFINITION. Sys2Proof/Decode.lean: command words to commands and back (30_encoding.md R120, R122, R124). -/

namespace Sys2Proof

/-- Which condition of 30_encoding.md R124 an illegal word breaks. All three have one effect, ILLEGAL_CMD. -/
inductive IllegalWord where
  | reservedOp
  | mbzNotZero
  | selNotAllowed
deriving DecidableEq, Repr

/-- What the decoder answers for a word. -/
inductive Decoded where
  | command (i : Instr)
  | illegal (why : IllegalWord)
deriving DecidableEq, Repr

/-- The field OP = [7:0] (30_encoding.md R120). -/
def opField (w : Word) : Byte := w.extractLsb' 0 8

/-- The field SEL = [8] (30_encoding.md R120). -/
def selField (w : Word) : BitVec 1 := w.extractLsb' 8 1

/-- The field MBZ = [31:9] (30_encoding.md R120). -/
def mbzField (w : Word) : BitVec 23 := w.extractLsb' 9 23

/-- A command that takes no SEL: SEL must be 0 (30_encoding.md R120). -/
def plainCommand (i : Instr) (sel : BitVec 1) : Decoded :=
  if sel = 0#1 then .command i else .illegal .selNotAllowed

/-- The counter SEL names: 0 = ECTR, 1 = DCTR (30_encoding.md R120). -/
def counterOf (sel : BitVec 1) : CtrSel := if sel = 0#1 then .ectr else .dctr

/-- The opcode map (30_encoding.md R122) on OP and SEL. -/
def decodeOp (op : Byte) (sel : BitVec 1) : Decoded :=
  match op.toNat with
  | 0x00 => plainCommand .nop sel
  | 0x01 => plainCommand .hdrsize sel
  | 0x02 => plainCommand .declen sel
  | 0x03 => plainCommand .pkttype sel
  | 0x04 => plainCommand .pktsub sel
  | 0x05 => plainCommand .wrhdr sel
  | 0x08 => plainCommand .encsize sel
  | 0x09 => plainCommand .decsize sel
  | 0x0A => plainCommand .shift sel
  | 0x10 => plainCommand .smencb sel
  | 0x11 => plainCommand .smdecb sel
  | 0x12 => plainCommand .smencf sel
  | 0x13 => plainCommand .smdecf sel
  | 0x18 => plainCommand .xorenc sel
  | 0x19 => plainCommand .xordec sel
  | 0x20 => .command (.ctrinc (counterOf sel))
  | 0x21 => .command (.ctrrst (counterOf sel))
  | 0x30 => plainCommand .strfeed sel
  | 0x31 => plainCommand .strnext sel
  | 0x32 => plainCommand .strclose sel
  | 0x33 => plainCommand .strreset sel
  | _ => .illegal .reservedOp

/-- Decoding a command word, total on all 2^32 words (30_encoding.md R124). -/
def decode (w : Word) : Decoded :=
  if mbzField w = 0#23 then decodeOp (opField w) (selField w) else .illegal .mbzNotZero

/-- SEL as the encoder writes it: `.E` = 0, `.D` = 1 (30_encoding.md R122). -/
def CtrSel.bit : CtrSel → BitVec 1
  | .ectr => 0#1
  | .dctr => 1#1

/-- OP of each command (30_encoding.md R122). -/
def Instr.op : Instr → Byte
  | .nop => 0x00#8
  | .hdrsize => 0x01#8
  | .declen => 0x02#8
  | .pkttype => 0x03#8
  | .pktsub => 0x04#8
  | .wrhdr => 0x05#8
  | .encsize => 0x08#8
  | .decsize => 0x09#8
  | .shift => 0x0A#8
  | .smencb => 0x10#8
  | .smdecb => 0x11#8
  | .smencf => 0x12#8
  | .smdecf => 0x13#8
  | .xorenc => 0x18#8
  | .xordec => 0x19#8
  | .ctrinc _ => 0x20#8
  | .ctrrst _ => 0x21#8
  | .strfeed => 0x30#8
  | .strnext => 0x31#8
  | .strclose => 0x32#8
  | .strreset => 0x33#8

/-- SEL of each command: 0 for every OP but CTRINC and CTRRST (30_encoding.md R120). -/
def Instr.sel : Instr → BitVec 1
  | .ctrinc sel => sel.bit
  | .ctrrst sel => sel.bit
  | _ => 0#1

/-- The command word `OP | (SEL << 8)` (30_encoding.md R122). -/
def encode (i : Instr) : Word := 0#23 ++ i.sel ++ i.op

/-- The command the decoder reads from the word whose low `nbits` bits are w, for the host's check of the opcode table. -/
def decodeTableWord (nbits w : Nat) : Option Instr :=
  match decode (BitVec.ofNat 32 (w % 2 ^ nbits)) with
  | .command i => some i
  | .illegal _ => none

end Sys2Proof
end

