-- ==== Sys2Proof/Config.lean ====
section
/-! DEFINITION. Sys2Proof/Config.lean: the parameters of an implementation (00_scope.md R6), the constants of the
algorithm, and the two free values the spec leaves open. -/

namespace Sys2Proof

/-- `ENC_MIX_ORDER` (00_scope.md R6; 42_simple_modulus.md R203). -/
inductive MixOrder where
  | desc
  | asc
deriving DecidableEq, Repr

/-- `KEY_ROLE` (00_scope.md R6; 10_state.md R40). -/
inductive KeyRole where
  | server
  | client
deriving DecidableEq, Repr

/-- A key set: the 12 words `K[0..11]` (10_state.md R38). -/
abbrev KeySet := Vector Word 12

/-- What the key store holds after reset, a parameter of the block (93_implementation_defined.md U13). -/
structure KeyTables where
  s2cEnc : KeySet
  s2cDec : KeySet
  c2sEnc : KeySet
  c2sDec : KeySet
  xkeyw  : Vector Word 8
deriving DecidableEq, Repr

/-- The parameters of one PCB (00_scope.md R6; 93_implementation_defined.md section 3). They stand in State, and no step
changes them, so that a statement about every state is a statement about every implementation (log entry 1). -/
structure Params where
  /-- `PCB_BASE`, the platform address of the register space: OPEN in the spec (00_scope.md R6; 20_memory.md R94). -/
  pcbBase     : Nat
  bufSize     : Nat
  streamCap   : Nat
  encMixOrder : MixOrder
  keyRole     : KeyRole
  keyTables   : KeyTables
deriving DecidableEq, Repr

namespace Config

/-- `DEC_BLOCK`, the plaintext block size (00_scope.md R6). -/
abbrev decBlock : Nat := 8
/-- `ENC_BLOCK`, the ciphertext block size (00_scope.md R6). -/
abbrev encBlock : Nat := 11
/-- `CSUM_SEED` (00_scope.md R6). -/
abbrev csumSeed : Byte := 0xF8#8
/-- `SIZE_XOR` (00_scope.md R6). -/
abbrev sizeXor : Byte := 0x3D#8
/-- `ID_VALUE` (00_scope.md R6; 10_state.md R33). -/
abbrev idValue : Word := 0x50434231#32
/-- The default of `BUF_SIZE` and of `STREAM_CAP` (00_scope.md R6). -/
abbrev defaultSize : Nat := 131072
/-- The register offset at which the BUF window begins (10_state.md R32). -/
abbrev windowBase : Nat := 0x10000

/-- FREE VALUE (93_implementation_defined.md U5; log entry 3): how many further host accesses come before the engine's
step, for the k-th value drawn. Any number, never infinite: the delay is "finite, unspecified" (30_encoding.md R126). -/
opaque completionDelay : Nat → Nat

/-- FREE VALUE (93_implementation_defined.md U3a; log entry 5): FRAME_AVAIL (bit 2) and SSTATE (bits 1..0) as a STATUS
read while BUSY = 1 shows them, for the k-th value drawn. -/
opaque busyStreamBits : Nat → BitVec 3

end Config
end Sys2Proof
end

