-- ==== Sys2Proof/Machine/KeyTables.lean ====
section
/-! DEFINITION. Sys2Proof/Machine/KeyTables.lean: the spec's default reset values of the key store (10_state.md R40, R41;
93_implementation_defined.md GK1, GK2) and the default parameters (00_scope.md R6). -/

namespace Sys2Proof.Machine

/-- KS_S2C_ENC, server encrypts to client (10_state.md R40). -/
def ksS2cEnc : KeySet :=
  #v[73326, 109989, 98843, 171058, 13169, 19036, 35482, 29587, 62004, 64409, 35374, 64599]

/-- KS_S2C_DEC, client decrypts from server (10_state.md R40). -/
def ksS2cDec : KeySet :=
  #v[73326, 109989, 98843, 171058, 18035, 30340, 24701, 11141, 62004, 64409, 35374, 64599]

/-- KS_C2S_ENC, client encrypts to server (10_state.md R40). -/
def ksC2sEnc : KeySet :=
  #v[128079, 164742, 70235, 106898, 23489, 11911, 19816, 13647, 48413, 46165, 15171, 37433]

/-- KS_C2S_DEC, server decrypts from client (10_state.md R40). -/
def ksC2sDec : KeySet :=
  #v[128079, 164742, 70235, 106898, 31544, 2047, 57011, 10183, 48413, 46165, 15171, 37433]

/-- XKEYW[0..7], the X32 bytes of 10_state.md R41 packed little-endian, four to a word. -/
def defaultXkeyw : Vector Word 8 :=
  #v[0x893A6DE7, 0x739FB2BC, 0xB6FEA823, 0x5D395D49, 0x8D63CB8A, 0x5F2B7DEA, 0x83E9B1C3, 0x56E85129]

/-- The default key tables (93_implementation_defined.md U13). -/
def defaultKeyTables : KeyTables :=
  { s2cEnc := ksS2cEnc, s2cDec := ksS2cDec, c2sEnc := ksC2sEnc, c2sDec := ksC2sDec, xkeyw := defaultXkeyw }

/-- The parameters at the values 00_scope.md R6 shows. PCB_BASE, which the spec leaves OPEN, is 0 (DESIGN CHOICE, log
entry 2). -/
def defaultParams : Params :=
  { pcbBase := 0, bufSize := Config.defaultSize, streamCap := Config.defaultSize, encMixOrder := .desc, keyRole := .server,
    keyTables := defaultKeyTables }

/-- EKEY after reset, by KEY_ROLE (10_state.md R40). -/
def resetEkey (p : Params) : KeySet :=
  match p.keyRole with
  | .server => p.keyTables.s2cEnc
  | .client => p.keyTables.c2sEnc

/-- DKEY after reset, by KEY_ROLE (10_state.md R40). -/
def resetDkey (p : Params) : KeySet :=
  match p.keyRole with
  | .server => p.keyTables.c2sDec
  | .client => p.keyTables.s2cDec

end Sys2Proof.Machine
end

