-- ==== Sys2Proof/Machine/State.lean ====
section
/-! DEFINITION. Sys2Proof/Machine/State.lean: everything the spec gives one PCB (10_state.md R30), as plain data, and the
state after reset (70_reset_and_hazards.md R381). -/

namespace Sys2Proof.Machine

/-- The values of STATUS.ERRCODE (60_exceptions.md R340). -/
inductive ErrCode where
  | none
  | invalidHeaderMarker
  | invalidBlockChecksum
  | counterMismatch
  | invalidLength
  | lengthOverflow
  | blockSize
  | bufRange
  | keyInvalid
  | streamState
  | streamOverflow
  | illegalCmd
deriving DecidableEq, Repr

/-- SSTATE (10_state.md R46): OPEN, TERMINATED, CLOSED. -/
inductive StreamState where
  | opened
  | terminated
  | closed
deriving DecidableEq, Repr

/-- One sequence counter: COUNT, MIN, MAX (10_state.md R42). -/
structure Counter where
  count : Byte
  min   : Byte
  max   : Byte
deriving DecidableEq, Repr

/-- The frame buffer as (address, byte) pairs, addresses strictly rising; an address not listed holds no value, which is
what an unwritten byte is (10_state.md R45; 70_reset_and_hazards.md R382). -/
abbrev Memory := List Host.Cell

/-- The width of a host access the block performs: 8, 16 or 32 bits (20_memory.md R83). An access of another width is
`HostEvent.otherWidth` (DESIGN CHOICE, log entry 24). -/
inductive Width where
  | w8
  | w16
  | w32
deriving DecidableEq, Repr

/-- Data on the host's bus, at one of the three widths (20_memory.md R83). -/
inductive BusData where
  | d8 (v : BitVec 8)
  | d16 (v : BitVec 16)
  | d32 (v : BitVec 32)
deriving DecidableEq, Repr

/-- What the outside world does to the block. `addr` is an address of the platform: PCB_BASE and an offset
(10_state.md R32; log entry 2).
`otherWidth` is an access, read or write, of `bytes` bytes that is none of the three widths of 20_memory.md R83
(92_eei_decisions.md D4; log entry 24).
`wait` is the WAIT of 30_encoding.md R137: repeat the read of STATUS until BUSY reads 0.
`reset` is the platform's reset (70_reset_and_hazards.md R380). -/
inductive HostEvent where
  | read (w : Width) (addr : Nat)
  | write (addr : Nat) (d : BusData)
  | otherWidth (addr bytes : Nat)
  | wait
  | reset
deriving DecidableEq, Repr

/-- Why a step stops with a fault: the three model faults of 93_implementation_defined.md section 1, and no other. -/
inductive Fault where
  /-- A command or a host window read reads a BUF byte nothing has written (U1; 70_reset_and_hazards.md R382). Safe: the
  hardware returns some byte and goes on. -/
  | unwrittenRead
  /-- A host write to a register other than STATUS and CMD, or to the BUF window, while BUSY = 1 (U2; R390). Safe: the
  hardware goes on with an unspecified result. -/
  | busyWrite
  /-- A host read of RESULT0, RESULT1, STREAM_LEVEL, ECTR_COUNT, DCTR_COUNT or the BUF window while BUSY = 1 (U3; R391).
  Safe: the hardware returns some value. -/
  | busyRead
deriving DecidableEq, Repr

/-- Why a step is refused. -/
inductive Refusal where
  /-- Raised by a refused arm of exec only: the command of that mnemonic has no meaning yet. Safe. No arm is so refused. -/
  | notModelled (mnemonic : String)
  /-- Raised by the host port: a register access that is not an aligned 32-bit word, a window access that is not
  naturally aligned, or an access of a width the block does not have (U4; 20_memory.md R84; 92_eei_decisions.md D4), busy
  or not (log entry 23). Safe: the spec defines no result. -/
  | badAccess
  /-- Raised by the host port: an access that reaches at or above offset 0x10000 + BUF_SIZE (U11; 20_memory.md R81), or
  lies below PCB_BASE (20_memory.md R94; log entry 2). Safe: what it reaches is the platform's. -/
  | outsidePcb
deriving DecidableEq, Repr

/-- The state of one PCB (10_state.md R30). -/
structure State where
  /-- The implementation's parameters; no step changes them (00_scope.md R6). -/
  params        : Params
  /-- CTRL[0], ACCEPT_BAD_CSUM; the reserved bits hold nothing (10_state.md R34). -/
  acceptBadCsum : Bool
  /-- STATUS[0] (10_state.md R35, R48). -/
  busy          : Bool
  /-- STATUS[1]. -/
  done          : Bool
  /-- STATUS[2]. -/
  err           : Bool
  /-- STATUS[3], sticky. -/
  errAcc        : Bool
  /-- STATUS[4], sticky. -/
  csumWarn      : Bool
  /-- STATUS[5], sticky. -/
  overrun       : Bool
  /-- STATUS[15:8]. -/
  errCode       : ErrCode
  /-- The operand registers (10_state.md R32). -/
  src           : Word
  dst           : Word
  len           : Word
  arg0          : Word
  arg1          : Word
  /-- The result registers (10_state.md R32). -/
  result0       : Word
  result1       : Word
  /-- The key store (10_state.md R38, R41). -/
  ekey          : KeySet
  dkey          : KeySet
  xkeyw         : Vector Word 8
  /-- The two counters (10_state.md R42). -/
  ectr          : Counter
  dctr          : Counter
  /-- The frame buffer (10_state.md R45). -/
  buf           : Memory
  /-- The stream reader (10_state.md R46). -/
  sb            : List Byte
  sstate        : StreamState
  /-- The word accepted by the last CMD write (10_state.md R48). -/
  pending       : Word
  /-- MODEL'S OWN (log entry 3): how many more host accesses come before the engine's step while BUSY = 1. -/
  delay         : Nat
  /-- MODEL'S OWN (log entry 3): how many free values have been drawn. -/
  draws         : Nat
  /-- MODEL'S OWN (log entry 4): the host port's events still to come, oldest first. -/
  hostQueue     : List HostEvent
  /-- MODEL'S OWN (log entry 4): the data returned by the host's reads, oldest first. -/
  hostReads     : List BusData
deriving DecidableEq, Repr

/-- A counter after reset: COUNT = 0, MIN = 0, MAX = 255 (10_state.md R43). -/
def Counter.atReset : Counter := { count := 0#8, min := 0#8, max := 255#8 }

/-- The state after reset for given parameters (70_reset_and_hazards.md R381). PENDING, which the spec leaves unspecified,
is 0 (DESIGN CHOICE, log entry 6), and so are the model's own fields (DESIGN CHOICE, log entry 20). -/
def State.resetWith (p : Params) : State :=
  { params := p
    acceptBadCsum := false
    busy := false, done := false, err := false, errAcc := false, csumWarn := false, overrun := false
    errCode := .none
    src := 0#32, dst := 0#32, len := 0#32, arg0 := 0#32, arg1 := 0#32
    result0 := 0#32, result1 := 0#32
    ekey := resetEkey p, dkey := resetDkey p, xkeyw := p.keyTables.xkeyw
    ectr := Counter.atReset, dctr := Counter.atReset
    buf := []
    sb := [], sstate := .opened
    pending := 0#32
    delay := 0, draws := 0, hostQueue := [], hostReads := [] }

/-- The state after reset at the default parameters (70_reset_and_hazards.md R381; 00_scope.md R6). -/
def State.reset : State := State.resetWith defaultParams

end Sys2Proof.Machine
end

