-- ==== Sys2Proof/Machine/Ops.lean ====
section
/-! DEFINITION. Sys2Proof/Machine/Ops.lean: the shared operations: the frame buffer, the evaluation of a command's
pseudocode, completion and error entry, command acceptance, the counters, the key check. -/

namespace Sys2Proof.Machine

/-! ## The frame buffer -/

/-- The byte at address a, or none where nothing has been written (70_reset_and_hazards.md R382). -/
def Memory.read : Memory → Nat → Option Byte
  | [], _ => none
  | (k, b) :: m, a => if k = a then some b else Memory.read m a

/-- Write one byte, keeping the addresses rising. -/
def Memory.write : Memory → Nat → Byte → Memory
  | [], a, v => [(a, v)]
  | (k, b) :: m, a, v =>
    if a < k then (a, v) :: (k, b) :: m
    else if a = k then (a, v) :: m
    else (k, b) :: Memory.write m a v

/-- The n bytes from address a, or none if one of them is unwritten: `MemRead(a, n)` (00_scope.md R11). -/
def Memory.readBytes (m : Memory) : Nat → Nat → Option (List Byte)
  | _, 0 => some []
  | a, n + 1 =>
    match m.read a with
    | none => none
    | some b => (m.readBytes (a + 1) n).map (b :: ·)

/-- `MemWrite(a, len(s), s)` (00_scope.md R11). -/
def Memory.writeBytes : Memory → Nat → List Byte → Memory
  | m, _, [] => m
  | m, a, b :: bs => Memory.writeBytes (m.write a b) (a + 1) bs

/-- Every address listed is at or above `lo`, and the addresses rise strictly. -/
def Memory.risesFrom : Nat → Memory → Bool
  | _, [] => true
  | lo, (k, _) :: m => decide (lo ≤ k) && Memory.risesFrom (k + 1) m

/-- The canonical form: addresses strictly rising. An unlisted address holds no value, so no entry can equal it. -/
def Memory.wf (m : Memory) : Bool := Memory.risesFrom 0 m

/-! ## Evaluating a command's pseudocode -/

/-- The writes that take effect on error (30_encoding.md R128): there are only these two. -/
inductive OnError where
  | nothing
  /-- SSTATE <- TERMINATED, by STRNEXT. -/
  | terminate
  /-- CSUM_WARN <- 1, by SMDECB and SMDECF. -/
  | warn
deriving DecidableEq, Repr

/-- The first phase of a command (00_scope.md R12): every check and every MemRead against the state the command started
in. It gives a value, or raises an error, or reads an unwritten byte. -/
inductive Eval (α : Type) where
  | ok (a : α)
  | err (e : ErrCode) (w : OnError)
  | fault (f : Fault)
deriving DecidableEq, Repr

/-- Go on with the value, if there is one. -/
def Eval.bind {α β : Type} (x : Eval α) (f : α → Eval β) : Eval β :=
  match x with
  | .ok a => f a
  | .err e w => .err e w
  | .fault r => .fault r

/-- `check c else e` (00_scope.md R11), then go on. -/
def Eval.check {α : Type} (c : Prop) [Decidable c] (e : ErrCode) (next : Eval α) : Eval α :=
  if c then next else .err e .nothing

/-- A value read from the buffer; an unwritten byte is a fault (70_reset_and_hazards.md R382). -/
def Eval.ofRead {α : Type} (r : Option α) : Eval α :=
  match r with
  | some a => .ok a
  | none => .fault .unwrittenRead

/-- `BUF[a]`. -/
def State.memByte (s : State) (a : Nat) : Eval Byte := Eval.ofRead (s.buf.read a)

/-- `MemRead(a, n)` (00_scope.md R11). -/
def State.memRead (s : State) (a n : Nat) : Eval (List Byte) := Eval.ofRead (s.buf.readBytes a n)

/-- `MemWrite(a, len(bs), bs)` (00_scope.md R11). -/
def State.memWrite (s : State) (a : Nat) (bs : List Byte) : State := { s with buf := s.buf.writeBytes a bs }

/-- The range check of 20_memory.md R82: a + n <= BUF_SIZE on unbounded integers. -/
abbrev State.inBuf (s : State) (a n : Nat) : Prop := a + n ≤ s.params.bufSize

/-- `R[RESULT0] <- r0 ; R[RESULT1] <- r1`, each register 32 bits wide (10_state.md R32). -/
def State.withResults (s : State) (r0 r1 : Nat) : State :=
  { s with result0 := BitVec.ofNat 32 r0, result1 := BitVec.ofNat 32 r1 }

/-! ## Completion, error entry, acceptance -/

/-- Completion on success (30_encoding.md R127): BUSY <- 0, DONE <- 1, ERR <- 0, ERRCODE <- 0. -/
def State.completeOk (s : State) : State :=
  { s with busy := false, done := true, err := false, errCode := .none }

/-- ERROR ENTRY, the block's one form of taking an exception (60_exceptions.md R344; 30_encoding.md R127): BUSY <- 0,
DONE <- 1, ERR <- 1, ERRCODE <- e, ERRACC <- 1. Nothing else changes: no vector, no saved pc, no mode. -/
def State.raise (s : State) (e : ErrCode) : State :=
  { s with busy := false, done := true, err := true, errCode := e, errAcc := true }

/-- The writes of 30_encoding.md R128. -/
def State.onError (s : State) : OnError → State
  | .nothing => s
  | .terminate => { s with sstate := .terminated }
  | .warn => { s with csumWarn := true }

/-- There is no return from an error (60_exceptions.md R345): ERR and ERRCODE hold until a command is accepted.
Acceptance (30_encoding.md R125): BUSY <- 1, DONE <- 0, ERR <- 0, ERRCODE <- 0, PENDING <- w. -/
def State.accept (s : State) (w : Word) : State :=
  { s with busy := true, done := false, err := false, errCode := .none, pending := w }

/-- The second phase of a command and its completion (00_scope.md R12; 30_encoding.md R127, R128): on success the writes,
already made in the state the evaluation gives, and on error only those of R128, on the state the command started in. -/
def State.finish (s : State) (r : Eval State) : Host.Outcome State Fault Refusal :=
  match r with
  | .ok t => .next t.completeOk
  | .err e w => .next ((s.onError w).raise e)
  | .fault f => .fault f

/-! ## Counters (40_counter.md) -/

/-- `Increase(c)` (40_counter.md R160). -/
def Counter.increase (c : Counter) : Counter :=
  let t := c.count.toNat + 1
  { c with count := if t > c.max.toNat then c.min else BitVec.ofNat 8 t }

/-- `Reset(c)` (40_counter.md R161). -/
def Counter.restart (c : Counter) : Counter := { c with count := c.min }

/-! ## Key sets (10_state.md R38, R39) -/

/-- The key check (10_state.md R39): no modulus word K[0..3] is 0. -/
def keyUsable (k : KeySet) : Bool := k[0] ≠ 0#32 && k[1] ≠ 0#32 && k[2] ≠ 0#32 && k[3] ≠ 0#32

end Sys2Proof.Machine
end

