-- ==== Sys2Proof/Machine/Operands.lean ====
section
/-! DEFINITION. Sys2Proof/Machine/Operands.lean: the operand roles of a command (30_encoding.md R121), the frame header
(R129 to R132), byte strings in bit-stream order and the shift-bytes primitive (00_scope.md R9; 41_cipher_core.md R180). -/

namespace Sys2Proof.Machine

/-! ## Operand registers, zero-extended to unbounded integers (30_encoding.md R120, R121) -/

/-- SRC as a buffer address. -/
abbrev State.srcAddr (s : State) : Nat := s.src.toNat
/-- DST as a buffer address. -/
abbrev State.dstAddr (s : State) : Nat := s.dst.toNat
/-- LEN as a count. -/
abbrev State.lenVal (s : State) : Nat := s.len.toNat
/-- ARG0 as a bit offset. -/
abbrev State.arg0Val (s : State) : Nat := s.arg0.toNat
/-- ARG1 as a bit offset. -/
abbrev State.arg1Val (s : State) : Nat := s.arg1.toNat
/-- ARG0[7:0], the marker of WRHDR; ARG0[31:8] is ignored (30_encoding.md R121). -/
abbrev State.markerOperand (s : State) : Byte := s.arg0.extractLsb' 0 8

/-- The counter SEL names (30_encoding.md R120). -/
def State.counter (s : State) : CtrSel → Counter
  | .ectr => s.ectr
  | .dctr => s.dctr

/-- Write the counter SEL names; the other is never touched (40_counter.md R162). -/
def State.setCounter (s : State) (sel : CtrSel) (c : Counter) : State :=
  match sel with
  | .ectr => { s with ectr := c }
  | .dctr => { s with dctr := c }

/-! ## Frame headers (30_encoding.md section 4) -/

/-- `HeaderSize(m)` (30_encoding.md R129). -/
def headerSize (m : Byte) : Nat :=
  if m = 0xC1#8 then 2
  else if m = 0xC2#8 then 3
  else if m = 0xC3#8 then 2
  else if m = 0xC4#8 then 3
  else 0

/-- m in {0xC1, 0xC2}: a plain frame (30_encoding.md R129). -/
def plainMarker (m : Byte) : Bool := m = 0xC1#8 || m = 0xC2#8

/-- `DeclaredLength(b0, b1, b2)` (30_encoding.md R130). -/
def declaredLength (b0 b1 b2 : Byte) : Nat :=
  if headerSize b0 = 2 then b1.toNat
  else if headerSize b0 = 3 then b1.toNat * 256 + b2.toNat
  else 0

/-- The largest length a header of size h can hold (30_encoding.md R136). -/
def lengthLimit (h : Nat) : Nat := if h = 2 then 255 else 65535

/-- The bytes of the length field, big-endian (30_encoding.md R131). -/
def lengthField (h len : Nat) : List Byte :=
  if h = 2 then [BitVec.ofNat 8 len] else [BitVec.ofNat 8 (len / 256), BitVec.ofNat 8 len]

/-- `WriteLength(a, h, L)` (30_encoding.md R131); a is the marker's address. -/
def State.writeLength (s : State) (a h len : Nat) : State := s.memWrite (a + 1) (lengthField h len)

/-- What FramePrologue returns: marker, header size, declared length. -/
structure Prologue where
  m   : Byte
  h   : Nat
  len : Nat
deriving DecidableEq, Repr

/-- `FramePrologue(a, full)` (30_encoding.md R132). -/
def State.framePrologue (s : State) (a : Nat) (full : Bool) : Eval Prologue :=
  Eval.check (s.inBuf a 1) .bufRange <|
  (s.memByte a).bind fun m =>
  Eval.check (headerSize m ≠ 0) .invalidHeaderMarker <|
  Eval.check (s.inBuf a (headerSize m)) .bufRange <|
  (s.memByte (a + 1)).bind fun b1 =>
  (if headerSize m = 3 then s.memByte (a + 2) else .ok 0#8).bind fun b2 =>
  Eval.check (declaredLength m b1 b2 ≠ 0) .invalidHeaderMarker <|
  Eval.check (headerSize m ≤ declaredLength m b1 b2) .invalidLength <|
  Eval.check (full = true → s.inBuf a (declaredLength m b1 b2)) .bufRange <|
  .ok { m := m, h := headerSize m, len := declaredLength m b1 b2 }

/-! ## Bit-stream order (00_scope.md R9) and shift-bytes (41_cipher_core.md R180) -/

/-- `BitAt(s, p)`: bit 7 - (p mod 8) of byte s[p div 8] (00_scope.md R9). -/
def bitAt (bs : List Byte) (p : Nat) : Bool := (bs.getD (p / 8) 0#8).getLsbD (7 - p % 8)

/-- Set bit p of a byte string to 1. -/
def setBitAt (bs : List Byte) (p : Nat) : List Byte := bs.modify (p / 8) (· ||| (1#8 <<< (7 - p % 8)))

/-- `ShiftBytes(dst, dbit, src, sbit, n)` (41_cipher_core.md R180): copy n bits, for j = 0 .. n-1 in order, OR-merging. -/
def shiftBytes (dst : List Byte) (dbit : Nat) (src : List Byte) (sbit : Nat) : Nat → List Byte
  | 0 => dst
  | n + 1 =>
    let d := shiftBytes dst dbit src sbit n
    if bitAt src (sbit + n) then setBitAt d (dbit + n) else d

/-- `ceil_div(a, b)` (00_scope.md R7). -/
def ceilDiv (a b : Nat) : Nat := (a + b - 1) / b

end Sys2Proof.Machine
end

