-- ==== Sys2Proof/Machine/Flags.lean ====
section
/-! DEFINITION. Sys2Proof/Machine/Flags.lean: the STATUS register (10_state.md R35, R36) and FRAME_AVAIL
(45_stream_reader.md R301). -/

namespace Sys2Proof.Machine

/-- The code of STATUS.ERRCODE (60_exceptions.md R340). -/
def ErrCode.code : ErrCode → Byte
  | .none => 0x00#8
  | .invalidHeaderMarker => 0x01#8
  | .invalidBlockChecksum => 0x02#8
  | .counterMismatch => 0x03#8
  | .invalidLength => 0x04#8
  | .lengthOverflow => 0x05#8
  | .blockSize => 0x06#8
  | .bufRange => 0x07#8
  | .keyInvalid => 0x08#8
  | .streamState => 0x09#8
  | .streamOverflow => 0x0A#8
  | .illegalCmd => 0x0F#8

/-- The encoding of SSTATE (10_state.md R35, R46). -/
def StreamState.code : StreamState → BitVec 2
  | .opened => 0#2
  | .terminated => 1#2
  | .closed => 2#2

/-- A one-bit field. -/
def bit (b : Bool) : BitVec 1 := if b then 1#1 else 0#1

/-- `FrameAvail` (45_stream_reader.md R301). -/
def State.frameAvail (s : State) : Bool :=
  match s.sstate, s.sb with
  | .terminated, _ => false
  | _, b0 :: b1 :: b2 :: _ =>
    let len := declaredLength b0 b1 b2
    decide (headerSize b0 ≤ len) && decide (len ≠ 0) && decide (len ≤ s.sb.length)
  | _, _ => false

/-- STATUS with given SSTATE and FRAME_AVAIL fields, laid out as 10_state.md R35 says: [31:17] reserved 0,
[16] FRAME_AVAIL, [15:8] ERRCODE, [7:6] SSTATE, [5] OVERRUN, [4] CSUM_WARN, [3] ERRACC, [2] ERR, [1] DONE, [0] BUSY. -/
def State.statusWith (s : State) (sstate : BitVec 2) (frameAvail : BitVec 1) : Word :=
  0#15 ++ frameAvail ++ s.errCode.code ++ sstate ++ bit s.overrun ++ bit s.csumWarn ++ bit s.errAcc ++ bit s.err ++
    bit s.done ++ bit s.busy

/-- STATUS as it reads while BUSY = 0 (10_state.md R35). -/
def State.statusWord (s : State) : Word := s.statusWith s.sstate.code (bit s.frameAvail)

/-- A host write of v to STATUS (10_state.md R36): v[3], v[4], v[5] clear ERRACC, CSUM_WARN, OVERRUN. -/
def State.writeStatus (s : State) (v : Word) : State :=
  { s with
    errAcc := s.errAcc && !v.getLsbD 3
    csumWarn := s.csumWarn && !v.getLsbD 4
    overrun := s.overrun && !v.getLsbD 5 }

end Sys2Proof.Machine
end

