-- ==== Sys2Proof/Machine/CipherCore.lean ====
section
/-! DEFINITION. Sys2Proof/Machine/CipherCore.lean: SHIFT, ENCSIZE, DECSIZE (41_cipher_core.md). -/

namespace Sys2Proof.Machine

/-- How many bytes a run of n > 0 bits from bit offset b reaches (41_cipher_core.md R181). -/
def bitSpan (b n : Nat) : Nat := (b + n - 1) / 8 + 1

/-- SHIFT (41_cipher_core.md R181): both regions are read before the write. -/
def execShift (s : State) : Host.Outcome State Fault Refusal :=
  let n := s.lenVal
  let sb := s.arg0Val
  let db := s.arg1Val
  s.finish <|
  if 0 < n then
    Eval.check (s.inBuf s.srcAddr (bitSpan sb n)) .bufRange <|
    Eval.check (s.inBuf s.dstAddr (bitSpan db n)) .bufRange <|
    (s.memRead s.srcAddr (bitSpan sb n)).bind fun src =>
    (s.memRead s.dstAddr (bitSpan db n)).bind fun dst =>
    .ok ((s.memWrite s.dstAddr (shiftBytes dst db src sb n)).withResults (db + n) 0)
  else .ok (s.withResults (db + n) 0)

/-- `k = ceil_div(M, 8)` with `M = L - h + 1`: the blocks of a plaintext frame's content (30_encoding.md R133). -/
def blockCount (h len : Nat) : Nat := ceilDiv (len - h + 1) Config.decBlock

/-- `E = h + 11 k`: the length of the encrypted frame (30_encoding.md R133). -/
def encryptedLength (h len : Nat) : Nat := h + Config.encBlock * blockCount h len

/-- ENCSIZE (41_cipher_core.md R182). -/
def execEncsize (s : State) : Host.Outcome State Fault Refusal :=
  s.finish <|
  (s.framePrologue s.srcAddr false).bind fun p =>
  if plainMarker p.m then .ok (s.withResults p.len 0)
  else
    Eval.check (encryptedLength p.h p.len ≤ lengthLimit p.h) .lengthOverflow <|
    .ok (s.withResults (encryptedLength p.h p.len) (blockCount p.h p.len))

/-- DECSIZE (41_cipher_core.md R183). -/
def execDecsize (s : State) : Host.Outcome State Fault Refusal :=
  s.finish <|
  (s.framePrologue s.srcAddr false).bind fun p =>
  if plainMarker p.m then .ok (s.withResults p.len 0)
  else
    let b := p.len - p.h
    Eval.check (0 < b ∧ b % Config.encBlock = 0) .invalidLength <|
    .ok (s.withResults (p.h + Config.decBlock * (b / Config.encBlock) - 1) (b / Config.encBlock))

end Sys2Proof.Machine
end

