-- ==== Sys2Proof/Machine/Counters.lean ====
section
/-! DEFINITION. Sys2Proof/Machine/Counters.lean: CTRINC, CTRRST (40_counter.md). -/

namespace Sys2Proof.Machine

/-- CTRINC (40_counter.md R162). -/
def execCtrinc (sel : CtrSel) (s : State) : Host.Outcome State Fault Refusal :=
  let c := (s.counter sel).increase
  s.finish (.ok ((s.setCounter sel c).withResults c.count.toNat (s.counter sel).count.toNat))

/-- CTRRST (40_counter.md R163). -/
def execCtrrst (sel : CtrSel) (s : State) : Host.Outcome State Fault Refusal :=
  let c := (s.counter sel).restart
  s.finish (.ok ((s.setCounter sel c).withResults c.count.toNat (s.counter sel).count.toNat))

end Sys2Proof.Machine
end

