-- ==== Sys2Proof/Machine/Framer.lean ====
section
/-! DEFINITION. Sys2Proof/Machine/Framer.lean: HDRSIZE, DECLEN, PKTTYPE, PKTSUB, WRHDR (44_framer.md). -/

namespace Sys2Proof.Machine

/-- HDRSIZE (44_framer.md R272). -/
def execHdrsize (s : State) : Host.Outcome State Fault Refusal :=
  s.finish <|
  Eval.check (s.inBuf s.srcAddr 1) .bufRange <|
  (s.memByte s.srcAddr).bind fun m =>
  .ok (s.withResults (headerSize m) m.toNat)

/-- DECLEN (44_framer.md R273): always reads three bytes (R271). -/
def execDeclen (s : State) : Host.Outcome State Fault Refusal :=
  s.finish <|
  Eval.check (s.inBuf s.srcAddr 3) .bufRange <|
  (s.memByte s.srcAddr).bind fun b0 =>
  (s.memByte (s.srcAddr + 1)).bind fun b1 =>
  (s.memByte (s.srcAddr + 2)).bind fun b2 =>
  .ok (s.withResults (declaredLength b0 b1 b2) (headerSize b0))

/-- The payload byte at index h + k of the frame at SRC, for PKTTYPE (k = 0) and PKTSUB (k = 1) (44_framer.md R274, R275). -/
def State.payloadByte (s : State) (k : Nat) : Eval State :=
  (s.framePrologue s.srcAddr false).bind fun p =>
  Eval.check (p.h + (k + 1) ≤ p.len) .invalidLength <|
  Eval.check (s.inBuf s.srcAddr (p.h + (k + 1))) .bufRange <|
  (s.memByte (s.srcAddr + (p.h + k))).bind fun b =>
  .ok (s.withResults b.toNat p.len)

/-- PKTTYPE (44_framer.md R274). -/
def execPkttype (s : State) : Host.Outcome State Fault Refusal := s.finish (s.payloadByte 0)

/-- PKTSUB (44_framer.md R275). -/
def execPktsub (s : State) : Host.Outcome State Fault Refusal := s.finish (s.payloadByte 1)

/-- WRHDR (44_framer.md R276). -/
def execWrhdr (s : State) : Host.Outcome State Fault Refusal :=
  let m := s.markerOperand
  let h := headerSize m
  let len := s.lenVal
  s.finish <|
  Eval.check (h ≠ 0) .invalidHeaderMarker <|
  Eval.check (1 ≤ len ∧ len ≤ lengthLimit h) .invalidLength <|
  Eval.check (s.inBuf s.dstAddr h) .bufRange <|
  .ok (((s.memWrite s.dstAddr [m]).writeLength s.dstAddr h len).withResults h 0)

end Sys2Proof.Machine
end

