-- ==== Sys2Proof/Machine/BlockCipher.lean ====
section
/-! DEFINITION. Sys2Proof/Machine/BlockCipher.lean: EncBlock and DecBlock, pure functions of a block, a key set and
ENC_MIX_ORDER (42_simple_modulus.md R200 to R211; the block layout is 30_encoding.md R134). -/

namespace Sys2Proof.Machine

/-- Four words: the ring RING[0..3], or the plaintext words c[0..3]. -/
structure Quad where
  w0 : Word
  w1 : Word
  w2 : Word
  w3 : Word
deriving DecidableEq, Repr

/-- `lo16(v)` (00_scope.md R7). -/
def lo16 (v : Word) : Word := v &&& 0xFFFF#32

/-- `fold_xor(s)` (00_scope.md R10). -/
def foldXor (bs : List Byte) : Byte := bs.foldl (· ^^^ ·) 0#8

/-- The modulus word K[i] (42_simple_modulus.md R200). -/
def modWord (k : KeySet) (i : Fin 4) : Word := k[i.val]
/-- The multiplier word K[4+i] (42_simple_modulus.md R200). -/
def mulWord (k : KeySet) (i : Fin 4) : Word := k[4 + i.val]
/-- The XOR word K[8+i] (42_simple_modulus.md R200). -/
def xorWord (k : KeySet) (i : Fin 4) : Word := k[8 + i.val]

/-! ## Encrypt -/

/-- The padding of a block of n <= 8 bytes, `P = B ++ zeros(8 - n)` (42_simple_modulus.md R201). -/
def padBlock (b : List Byte) : List Byte := b ++ List.replicate (Config.decBlock - b.length) 0#8

/-- `c[i] = P[2i] | (P[2i+1] << 8)` (42_simple_modulus.md R201). -/
def plainWord (p : List Byte) (i : Nat) : Word := 0#16 ++ p.getD (2 * i + 1) 0#8 ++ p.getD (2 * i) 0#8

/-- The four plaintext words (42_simple_modulus.md R201). -/
def plainWords (p : List Byte) : Quad :=
  { w0 := plainWord p 0, w1 := plainWord p 1, w2 := plainWord p 2, w3 := plainWord p 3 }

/-- One word of the modular step: `wrap32((K[8+i] ^ c ^ prev) * K[4+i]) mod K[i]` (42_simple_modulus.md R202). -/
def modStep (k : KeySet) (i : Fin 4) (c prev : Word) : Word :=
  ((xorWord k i ^^^ c ^^^ prev) * mulWord k i) % modWord k i

/-- The modular step, i = 0, 1, 2, 3 in order, each using the low half of the ring word before it
(42_simple_modulus.md R202). -/
def modRing (k : KeySet) (c : Quad) : Quad :=
  let r0 := modStep k 0 c.w0 0#32
  let r1 := modStep k 1 c.w1 (lo16 r0)
  let r2 := modStep k 2 c.w2 (lo16 r1)
  let r3 := modStep k 3 c.w3 (lo16 r2)
  { w0 := r0, w1 := r1, w2 := r2, w3 := r3 }

/-- `RING[i] = RING[i] ^ K[8+i] ^ lo16(RING[i+1])` for i = 2, 1, 0 (42_simple_modulus.md R203, R208). -/
def sweepDown (k : KeySet) (r : Quad) : Quad :=
  let r2 := r.w2 ^^^ xorWord k 2 ^^^ lo16 r.w3
  let r1 := r.w1 ^^^ xorWord k 1 ^^^ lo16 r2
  let r0 := r.w0 ^^^ xorWord k 0 ^^^ lo16 r1
  { w0 := r0, w1 := r1, w2 := r2, w3 := r.w3 }

/-- `RING[i] = RING[i] ^ K[8+i] ^ lo16(RING[i+1])` for i = 0, 1, 2 (42_simple_modulus.md R203, R208). -/
def sweepUp (k : KeySet) (r : Quad) : Quad :=
  { w0 := r.w0 ^^^ xorWord k 0 ^^^ lo16 r.w1
    w1 := r.w1 ^^^ xorWord k 1 ^^^ lo16 r.w2
    w2 := r.w2 ^^^ xorWord k 2 ^^^ lo16 r.w3
    w3 := r.w3 }

/-- The mix step (42_simple_modulus.md R203): DESC is i = 2, 1, 0 and ASC is i = 0, 1, 2. -/
def mixRing (o : MixOrder) (k : KeySet) (r : Quad) : Quad :=
  match o with
  | .desc => sweepDown k r
  | .asc => sweepUp k r

/-- The checksum byte `X = 0xF8 ^ fold_xor(P)` (42_simple_modulus.md R204). -/
def checksum (p : List Byte) : Byte := Config.csumSeed ^^^ foldXor p

/-- The size byte `S = n ^ 0x3D ^ X` (42_simple_modulus.md R204). -/
def sizeByte (n : Nat) (x : Byte) : Byte := BitVec.ofNat 8 n ^^^ Config.sizeXor ^^^ x

/-- The 18-bit ring group g_i: RING bits 7..0, then 15..8, then 17, then 16 (30_encoding.md R134). -/
def ringGroup (r : Word) : BitVec 18 :=
  r.extractLsb' 0 8 ++ r.extractLsb' 8 8 ++ r.extractLsb' 17 1 ++ r.extractLsb' 16 1

/-- The 88-bit number of an encrypted block: g_0, g_1, g_2, g_3, S, X from the top (30_encoding.md R134). -/
def packBits (r : Quad) (s x : Byte) : BitVec 88 :=
  ringGroup r.w0 ++ ringGroup r.w1 ++ ringGroup r.w2 ++ ringGroup r.w3 ++ s ++ x

/-- The big-endian byte string of an 88-bit number: byte j holds bits 87 - 8j .. 80 - 8j (30_encoding.md R134). -/
def bytesOfBits (v : BitVec 88) : List Byte := (List.range Config.encBlock).map fun j => v.extractLsb' (80 - 8 * j) 8

/-- Pack (42_simple_modulus.md R205). -/
def packBlock (r : Quad) (s x : Byte) : List Byte := bytesOfBits (packBits r s x)

/-- What EncBlock returns: the 11 bytes and the checksum byte (42_simple_modulus.md R206). -/
structure Encoded where
  eb : List Byte
  x  : Byte
deriving DecidableEq, Repr

/-- `EncBlock(B, K)` (42_simple_modulus.md R206). -/
def encodeBlock (o : MixOrder) (k : KeySet) (b : List Byte) : Encoded :=
  let p := padBlock b
  let x := checksum p
  { eb := packBlock (mixRing o k (modRing k (plainWords p))) (sizeByte b.length x) x, x := x }

/-! ## Decrypt -/

/-- The ring word of an 18-bit group (42_simple_modulus.md R207). -/
def ringOfGroup (g : BitVec 18) : Word :=
  0#14 ++ g.extractLsb' 1 1 ++ g.extractLsb' 0 1 ++ g.extractLsb' 2 8 ++ g.extractLsb' 10 8

/-- The 88-bit number of an 11-byte string, first byte highest (30_encoding.md R134). -/
def bitsOfBytes (eb : List Byte) : BitVec 88 :=
  eb.getD 0 0#8 ++ eb.getD 1 0#8 ++ eb.getD 2 0#8 ++ eb.getD 3 0#8 ++ eb.getD 4 0#8 ++ eb.getD 5 0#8 ++
    eb.getD 6 0#8 ++ eb.getD 7 0#8 ++ eb.getD 8 0#8 ++ eb.getD 9 0#8 ++ eb.getD 10 0#8

/-- The ring words of an encrypted block (42_simple_modulus.md R207). -/
def unpackRing (eb : List Byte) : Quad :=
  let v := bitsOfBytes eb
  { w0 := ringOfGroup (v.extractLsb' 70 18)
    w1 := ringOfGroup (v.extractLsb' 52 18)
    w2 := ringOfGroup (v.extractLsb' 34 18)
    w3 := ringOfGroup (v.extractLsb' 16 18) }

/-- The size byte S of an encrypted block (42_simple_modulus.md R207). -/
def unpackSize (eb : List Byte) : Byte := (bitsOfBytes eb).extractLsb' 8 8

/-- The checksum byte X of an encrypted block (42_simple_modulus.md R207). -/
def unpackChecksum (eb : List Byte) : Byte := (bitsOfBytes eb).extractLsb' 0 8

/-- The unmix step, the reverse order of the mix (42_simple_modulus.md R208). -/
def unmixRing (o : MixOrder) (k : KeySet) (r : Quad) : Quad :=
  match o with
  | .desc => sweepUp k r
  | .asc => sweepDown k r

/-- `w = D[8+i] ^ (wrap32(RING[i] * D[4+i]) mod D[i]) ^ prev` (42_simple_modulus.md R209). -/
def unmodStep (d : KeySet) (i : Fin 4) (r prev : Word) : Word :=
  xorWord d i ^^^ ((r * mulWord d i) % modWord d i) ^^^ prev

/-- The two bytes of a decoded word, its low 16 bits, low byte first (42_simple_modulus.md R209). -/
def wordBytes (w : Word) : List Byte := [w.extractLsb' 0 8, w.extractLsb' 8 8]

/-- The modular step of decryption: the 8 bytes O (42_simple_modulus.md R209). -/
def unmodRing (d : KeySet) (r : Quad) : List Byte :=
  wordBytes (unmodStep d 0 r.w0 0#32) ++ wordBytes (unmodStep d 1 r.w1 (lo16 r.w0)) ++
    wordBytes (unmodStep d 2 r.w2 (lo16 r.w1)) ++ wordBytes (unmodStep d 3 r.w3 (lo16 r.w2))

/-- What DecBlock returns: the 8 bytes, the decoded size, the checksum result (42_simple_modulus.md R211). -/
structure Plain where
  o  : List Byte
  n  : Nat
  ok : Bool
deriving DecidableEq, Repr

/-- `DecBlock(EB, D)` (42_simple_modulus.md R210, R211). -/
def decodeBlock (o : MixOrder) (d : KeySet) (eb : List Byte) : Plain :=
  let out := unmodRing d (unmixRing o d (unpackRing eb))
  let x := unpackChecksum eb
  { o := out
    n := (unpackSize eb ^^^ x ^^^ Config.sizeXor).toNat
    ok := checksum out = x }

end Sys2Proof.Machine
end

