-- ==== Sys2Proof/Machine/SimpleModulus.lean ====
section
/-! DEFINITION. Sys2Proof/Machine/SimpleModulus.lean: SMENCB, SMDECB, SMENCF, SMDECF (42_simple_modulus.md). -/

namespace Sys2Proof.Machine

/-! ## Block commands -/

/-- SMENCB (42_simple_modulus.md R213). -/
def execSmencb (s : State) : Host.Outcome State Fault Refusal :=
  let n := s.lenVal
  s.finish <|
  Eval.check (1 ≤ n ∧ n ≤ Config.decBlock) .blockSize <|
  Eval.check (s.inBuf s.srcAddr n) .bufRange <|
  Eval.check (s.inBuf s.dstAddr Config.encBlock) .bufRange <|
  Eval.check (keyUsable s.ekey = true) .keyInvalid <|
  (s.memRead s.srcAddr n).bind fun b =>
  let e := encodeBlock s.params.encMixOrder s.ekey b
  .ok ((s.memWrite s.dstAddr e.eb).withResults Config.encBlock e.x.toNat)

/-- The CSUM_WARN write a failing command still makes (30_encoding.md R128). -/
def OnError.ofWarn (warn : Bool) : OnError := if warn then .warn else .nothing

/-- One block of a decoding command, already read: the checksum policy of 42_simple_modulus.md R220, then the size check.
`warn` says whether an earlier block was tolerated; the value says whether one has been now. -/
def State.checkBlock (s : State) (warn : Bool) (p : Plain) : Eval Bool :=
  if p.ok = false ∧ s.acceptBadCsum = false then .err .invalidBlockChecksum (.ofWarn warn)
  else if 1 ≤ p.n ∧ p.n ≤ Config.decBlock then .ok (warn || !p.ok)
  else .err .blockSize (.ofWarn (warn || !p.ok))

/-- `CSUM_WARN <- 1 if warn` (42_simple_modulus.md R220). -/
def State.addWarn (s : State) (warn : Bool) : State := { s with csumWarn := s.csumWarn || warn }

/-- SMDECB (42_simple_modulus.md R214). -/
def execSmdecb (s : State) : Host.Outcome State Fault Refusal :=
  s.finish <|
  Eval.check (s.inBuf s.srcAddr Config.encBlock) .bufRange <|
  Eval.check (s.inBuf s.dstAddr Config.decBlock) .bufRange <|
  Eval.check (keyUsable s.dkey = true) .keyInvalid <|
  (s.memRead s.srcAddr Config.encBlock).bind fun eb =>
  let p := decodeBlock s.params.encMixOrder s.dkey eb
  (s.checkBlock false p).bind fun warn =>
  .ok (((s.memWrite s.dstAddr p.o).withResults p.n (if p.ok then 1 else 0)).addWarn warn)

/-! ## Frame commands -/

/-- The plain-frame case of SMENCF and SMDECF: L bytes copied from SRC to DST (42_simple_modulus.md R218). -/
def State.copyFrame (s : State) (len : Nat) : Eval State :=
  Eval.check (s.inBuf s.dstAddr len) .bufRange <|
  (s.memRead s.srcAddr len).bind fun f =>
  .ok ((s.memWrite s.dstAddr f).withResults len 0)

/-- The encryptions of the k blocks of a content, block j being C[8j .. min(8j+8, M)) (30_encoding.md R133). -/
def encodeBlocks (o : MixOrder) (key : KeySet) : Nat → List Byte → List Byte
  | 0, _ => []
  | k + 1, c => (encodeBlock o key (c.take Config.decBlock)).eb ++ encodeBlocks o key k (c.drop Config.decBlock)

/-- SMENCF (42_simple_modulus.md R216). -/
def execSmencf (s : State) : Host.Outcome State Fault Refusal :=
  s.finish <|
  (s.framePrologue s.srcAddr true).bind fun p =>
  if plainMarker p.m then s.copyFrame p.len
  else
    let e := encryptedLength p.h p.len
    Eval.check (keyUsable s.ekey = true) .keyInvalid <|
    Eval.check (e ≤ lengthLimit p.h) .lengthOverflow <|
    Eval.check (s.inBuf s.dstAddr e) .bufRange <|
    (s.memRead (s.srcAddr + p.h) (p.len - p.h)).bind fun payload =>
    let cnt := s.ectr.count
    let body := encodeBlocks s.params.encMixOrder s.ekey (blockCount p.h p.len) (cnt :: payload)
    .ok (((s.memWrite s.dstAddr (p.m :: lengthField p.h e ++ body)).withResults e cnt.toNat).setCounter .ectr
      s.ectr.increase)

/-- The k blocks from address a, decoded in ascending order: the content so far missing, and whether a checksum was
tolerated (42_simple_modulus.md R215, R217). -/
def State.decodeBlocks (s : State) : Nat → Nat → Bool → Eval (List Byte × Bool)
  | 0, _, warn => .ok ([], warn)
  | k + 1, a, warn =>
    (s.memRead a Config.encBlock).bind fun eb =>
    let p := decodeBlock s.params.encMixOrder s.dkey eb
    (s.checkBlock warn p).bind fun warn' =>
    (s.decodeBlocks k (a + Config.encBlock) warn').bind fun r =>
    .ok (p.o.take p.n ++ r.1, r.2)

/-- A check of SMDECF after its blocks: on failure CSUM_WARN is written if a block was tolerated (30_encoding.md R128). -/
def Eval.checkWarn {α : Type} (c : Prop) [Decidable c] (e : ErrCode) (warn : Bool) (next : Eval α) : Eval α :=
  if c then next else .err e (.ofWarn warn)

/-- SMDECF (42_simple_modulus.md R217). -/
def execSmdecf (s : State) : Host.Outcome State Fault Refusal :=
  s.finish <|
  (s.framePrologue s.srcAddr true).bind fun p =>
  if plainMarker p.m then s.copyFrame p.len
  else
    let b := p.len - p.h
    Eval.check (keyUsable s.dkey = true) .keyInvalid <|
    Eval.check (0 < b ∧ b % Config.encBlock = 0) .invalidLength <|
    (s.decodeBlocks (b / Config.encBlock) (s.srcAddr + p.h) false).bind fun r =>
    let c0 := r.1.headD 0#8
    let lout := p.h + r.1.length - 1
    Eval.checkWarn (c0 = s.dctr.count) .counterMismatch r.2 <|
    Eval.checkWarn (s.inBuf s.dstAddr lout) .bufRange r.2 <|
    .ok ((((s.memWrite s.dstAddr (p.m :: lengthField p.h lout ++ r.1.tail)).withResults lout c0.toNat).setCounter
      .dctr s.dctr.increase).addWarn r.2)

end Sys2Proof.Machine
end

