-- ==== Sys2Proof/Machine/Stream.lean ====
section
/-! DEFINITION. Sys2Proof/Machine/Stream.lean: STRFEED, STRNEXT, STRCLOSE, STRRESET (45_stream_reader.md). -/

namespace Sys2Proof.Machine

/-- STRFEED (45_stream_reader.md R302). -/
def execStrfeed (s : State) : Host.Outcome State Fault Refusal :=
  s.finish <|
  Eval.check (s.sstate = .opened) .streamState <|
  Eval.check (s.inBuf s.srcAddr s.lenVal) .bufRange <|
  Eval.check (s.sb.length + s.lenVal ≤ s.params.streamCap) .streamOverflow <|
  (s.memRead s.srcAddr s.lenVal).bind fun bs =>
  .ok (({ s with sb := s.sb ++ bs } : State).withResults (s.sb.length + s.lenVal) s.lenVal)

/-- What the head of the stream holds (45_stream_reader.md R303). -/
inductive Head where
  /-- Fewer than 3 bytes, or fewer than the declared length. -/
  | incomplete
  /-- Declared length 0: the marker is invalid or the length field is 0. -/
  | badMarker
  /-- A non-zero declared length below the header size. -/
  | badLength
  /-- A complete frame of this length. -/
  | frame (len : Nat)
deriving DecidableEq, Repr

/-- The head of the stream, from its first three bytes and its length (45_stream_reader.md R303). -/
def streamHead (sb : List Byte) : Head :=
  match sb with
  | b0 :: b1 :: b2 :: _ =>
    let len := declaredLength b0 b1 b2
    if len = 0 then .badMarker
    else if len < headerSize b0 then .badLength
    else if len ≤ sb.length then .frame len
    else .incomplete
  | _ => .incomplete

/-- STRNEXT (45_stream_reader.md R303). The two framing errors also set SSTATE <- TERMINATED (30_encoding.md R128). -/
def execStrnext (s : State) : Host.Outcome State Fault Refusal :=
  s.finish <|
  Eval.check (s.sstate ≠ .terminated) .streamState <|
  match streamHead s.sb with
  | .badMarker => .err .invalidHeaderMarker .terminate
  | .badLength => .err .invalidLength .terminate
  | .frame len =>
    Eval.check (s.inBuf s.dstAddr len) .bufRange <|
    .ok (({ s.memWrite s.dstAddr (s.sb.take len) with sb := s.sb.drop len } : State).withResults len (s.sb.length - len))
  | .incomplete =>
    let sb := if s.sstate = .closed then [] else s.sb
    .ok (({ s with sb := sb } : State).withResults 0 sb.length)

/-- STRCLOSE (45_stream_reader.md R304). -/
def execStrclose (s : State) : Host.Outcome State Fault Refusal :=
  s.finish <|
  .ok (({ s with sstate := if s.sstate = .opened then .closed else s.sstate } : State).withResults s.sb.length 0)

/-- STRRESET (45_stream_reader.md R305). -/
def execStrreset (s : State) : Host.Outcome State Fault Refusal :=
  s.finish (.ok (({ s with sb := [], sstate := .opened } : State).withResults s.sb.length 0))

end Sys2Proof.Machine
end

