-- ==== Sys2Proof/Machine/System.lean ====
section
/-! DEFINITION. Sys2Proof/Machine/System.lean: NOP (46_system.md). -/

namespace Sys2Proof.Machine

/-- NOP (46_system.md R330): no action; only the completion bits of STATUS change. -/
def execNop (s : State) : Host.Outcome State Fault Refusal := s.finish (.ok s)

end Sys2Proof.Machine
end

