-- ==== Sys2Proof/Machine/Xor32.lean ====
section
/-! DEFINITION. Sys2Proof/Machine/Xor32.lean: XORENC, XORDEC (43_xor32.md). -/

namespace Sys2Proof.Machine

/-- The key byte `X32[i mod 32]`, byte b = i mod 4 of word XKEYW[(i mod 32) div 4] (10_state.md R41; 43_xor32.md R250). -/
def x32 (key : Vector Word 8) (i : Nat) : Byte :=
  (key.toList.getD (i % 32 / 4) 0#32).extractLsb' (8 * (i % 4)) 8

/-- `F[i] = F[i] ^ F[i-1] ^ X32[i mod 32]` (43_xor32.md R251, R252). -/
def xorAt (key : Vector Word 8) (f : List Byte) (i : Nat) : List Byte :=
  f.set i (f.getD i 0#8 ^^^ f.getD (i - 1) 0#8 ^^^ x32 key i)

/-- The indices h + 1 .. L - 1 the pass changes, ascending (43_xor32.md R250). -/
def xorRange (h len : Nat) : List Nat := List.range' (h + 1) (len - (h + 1))

/-- The encode pass, ascending (43_xor32.md R251). -/
def xorEncode (key : Vector Word 8) (h : Nat) (f : List Byte) : List Byte :=
  (xorRange h f.length).foldl (xorAt key) f

/-- The decode pass, descending (43_xor32.md R252). -/
def xorDecode (key : Vector Word 8) (h : Nat) (f : List Byte) : List Byte :=
  (xorRange h f.length).reverse.foldl (xorAt key) f

/-- A pass over the frame at SRC, in place (43_xor32.md R251, R252). -/
def State.xorPass (s : State) (pass : Nat → List Byte → List Byte) : Eval State :=
  (s.framePrologue s.srcAddr true).bind fun p =>
  (s.memRead s.srcAddr p.len).bind fun f =>
  .ok ((s.memWrite s.srcAddr (pass p.h f)).withResults p.len p.h)

/-- XORENC (43_xor32.md R251). -/
def execXorenc (s : State) : Host.Outcome State Fault Refusal := s.finish (s.xorPass (xorEncode s.xkeyw))

/-- XORDEC (43_xor32.md R252). -/
def execXordec (s : State) : Host.Outcome State Fault Refusal := s.finish (s.xorPass (xorDecode s.xkeyw))

end Sys2Proof.Machine
end

