-- ==== Sys2Proof/Machine/Dispatch.lean ====
section
/-! DEFINITION. Sys2Proof/Machine/Dispatch.lean: one arm per command. -/

namespace Sys2Proof.Machine

def exec (i : Instr) (s : State) : Host.Outcome State Fault Refusal :=
  match i with
  | .nop => Sys2Proof.Machine.execNop s
  | .hdrsize => Sys2Proof.Machine.execHdrsize s
  | .declen => Sys2Proof.Machine.execDeclen s
  | .pkttype => Sys2Proof.Machine.execPkttype s
  | .pktsub => Sys2Proof.Machine.execPktsub s
  | .wrhdr => Sys2Proof.Machine.execWrhdr s
  | .encsize => Sys2Proof.Machine.execEncsize s
  | .decsize => Sys2Proof.Machine.execDecsize s
  | .shift => Sys2Proof.Machine.execShift s
  | .smencb => Sys2Proof.Machine.execSmencb s
  | .smdecb => Sys2Proof.Machine.execSmdecb s
  | .smencf => Sys2Proof.Machine.execSmencf s
  | .smdecf => Sys2Proof.Machine.execSmdecf s
  | .xorenc => Sys2Proof.Machine.execXorenc s
  | .xordec => Sys2Proof.Machine.execXordec s
  | .ctrinc sel => Sys2Proof.Machine.execCtrinc sel s
  | .ctrrst sel => Sys2Proof.Machine.execCtrrst sel s
  | .strfeed => Sys2Proof.Machine.execStrfeed s
  | .strnext => Sys2Proof.Machine.execStrnext s
  | .strclose => Sys2Proof.Machine.execStrclose s
  | .strreset => Sys2Proof.Machine.execStrreset s

end Sys2Proof.Machine
end

