-- ==== Sys2Proof/Machine/HostPort.lean ====
section
/-! DEFINITION. Sys2Proof/Machine/HostPort.lean: the host register map and the host's accesses (10_state.md R32 to R47;
20_memory.md R81 to R84, R88; 30_encoding.md R125; 70_reset_and_hazards.md R380, R390 to R392). -/

namespace Sys2Proof.Machine

/-- The registers of 10_state.md R32. -/
inductive Reg where
  | id
  | ctrl
  | status
  | cmd
  | src
  | dst
  | len
  | arg0
  | arg1
  | result0
  | result1
  | streamLevel
  | ectrCount
  | ectrMin
  | ectrMax
  | dctrCount
  | dctrMin
  | dctrMax
  | ekey (j : Fin 12)
  | dkey (j : Fin 12)
  | xkeyw (j : Fin 8)
deriving DecidableEq, Repr

/-- The offset of each register (10_state.md R32). -/
def Reg.offset : Reg → Nat
  | .id => 0x000
  | .ctrl => 0x004
  | .status => 0x008
  | .cmd => 0x00C
  | .src => 0x010
  | .dst => 0x014
  | .len => 0x018
  | .arg0 => 0x01C
  | .arg1 => 0x020
  | .result0 => 0x024
  | .result1 => 0x028
  | .streamLevel => 0x030
  | .ectrCount => 0x040
  | .ectrMin => 0x044
  | .ectrMax => 0x048
  | .dctrCount => 0x050
  | .dctrMin => 0x054
  | .dctrMax => 0x058
  | .ekey j => 0x100 + 4 * j.val
  | .dkey j => 0x140 + 4 * j.val
  | .xkeyw j => 0x180 + 4 * j.val

/-- The registers of the map, in its order (10_state.md R32). -/
def allRegs : List Reg :=
  [.id, .ctrl, .status, .cmd, .src, .dst, .len, .arg0, .arg1, .result0, .result1, .streamLevel,
   .ectrCount, .ectrMin, .ectrMax, .dctrCount, .dctrMin, .dctrMax] ++
  (List.finRange 12).map .ekey ++ (List.finRange 12).map .dkey ++ (List.finRange 8).map .xkeyw

/-- The register at an offset, or none where nothing is mapped (10_state.md R32). -/
def regAt (off : Nat) : Option Reg := allRegs.find? fun r => r.offset = off

/-- What a register reads as while BUSY = 0 (10_state.md R32 to R47): CMD reads 0, and the counters' bits [31:8] and
CTRL's bits [31:1] read 0. -/
def State.regValue (s : State) : Reg → Word
  | .id => Config.idValue
  | .ctrl => 0#31 ++ bit s.acceptBadCsum
  | .status => s.statusWord
  | .cmd => 0#32
  | .src => s.src
  | .dst => s.dst
  | .len => s.len
  | .arg0 => s.arg0
  | .arg1 => s.arg1
  | .result0 => s.result0
  | .result1 => s.result1
  | .streamLevel => BitVec.ofNat 32 s.sb.length
  | .ectrCount => s.ectr.count.setWidth 32
  | .ectrMin => s.ectr.min.setWidth 32
  | .ectrMax => s.ectr.max.setWidth 32
  | .dctrCount => s.dctr.count.setWidth 32
  | .dctrMin => s.dctr.min.setWidth 32
  | .dctrMax => s.dctr.max.setWidth 32
  | .ekey j => s.ekey[j.val]
  | .dkey j => s.dkey[j.val]
  | .xkeyw j => s.xkeyw[j.val]

/-- A CMD write of w (30_encoding.md R125): accepted while BUSY = 0, with the delay of the engine's step drawn as a free
value (93_implementation_defined.md U5); dropped with OVERRUN <- 1 while BUSY = 1. -/
def State.issue (s : State) (w : Word) : State :=
  if s.busy then { s with overrun := true }
  else { s.accept w with delay := Config.completionDelay s.draws, draws := s.draws + 1 }

/-- What a 32-bit register write does while BUSY = 0 (10_state.md R32 to R47): a read-only register ignores it. -/
def State.writeReg (s : State) (r : Reg) (v : Word) : State :=
  match r with
  | .id => s
  | .ctrl => { s with acceptBadCsum := v.getLsbD 0 }
  | .status => s.writeStatus v
  | .cmd => s.issue v
  | .src => { s with src := v }
  | .dst => { s with dst := v }
  | .len => { s with len := v }
  | .arg0 => { s with arg0 := v }
  | .arg1 => { s with arg1 := v }
  | .result0 => s
  | .result1 => s
  | .streamLevel => s
  | .ectrCount => { s with ectr := { s.ectr with count := v.extractLsb' 0 8 } }
  | .ectrMin => { s with ectr := { s.ectr with min := v.extractLsb' 0 8 } }
  | .ectrMax => { s with ectr := { s.ectr with max := v.extractLsb' 0 8 } }
  | .dctrCount => { s with dctr := { s.dctr with count := v.extractLsb' 0 8 } }
  | .dctrMin => { s with dctr := { s.dctr with min := v.extractLsb' 0 8 } }
  | .dctrMax => { s with dctr := { s.dctr with max := v.extractLsb' 0 8 } }
  | .ekey j => { s with ekey := s.ekey.set j.val v }
  | .dkey j => { s with dkey := s.dkey.set j.val v }
  | .xkeyw j => { s with xkeyw := s.xkeyw.set j.val v }

/-- The registers a host may write while BUSY = 1 (70_reset_and_hazards.md R390). -/
def Reg.writableBusy (r : Reg) : Bool := r = .status || r = .cmd

/-- The registers whose read while BUSY = 1 is a hazard (70_reset_and_hazards.md R391). -/
def Reg.readHazard (r : Reg) : Bool :=
  r = .result0 || r = .result1 || r = .streamLevel || r = .ectrCount || r = .dctrCount

/-- The bytes of an access (20_memory.md R83). -/
def Width.bytes : Width → Nat
  | .w8 => 1
  | .w16 => 2
  | .w32 => 4

/-- The width of bus data. -/
def BusData.width : BusData → Width
  | .d8 _ => .w8
  | .d16 _ => .w16
  | .d32 _ => .w32

/-- The bytes of bus data, the byte of the lowest address first: little-endian (20_memory.md R83). -/
def BusData.toBytes : BusData → List Byte
  | .d8 v => [v]
  | .d16 v => [v.extractLsb' 0 8, v.extractLsb' 8 8]
  | .d32 v => [v.extractLsb' 0 8, v.extractLsb' 8 8, v.extractLsb' 16 8, v.extractLsb' 24 8]

/-- Bus data of a width from bytes, little-endian (20_memory.md R83). -/
def BusData.ofBytes (w : Width) (bs : List Byte) : BusData :=
  match w with
  | .w8 => .d8 (bs.getD 0 0#8)
  | .w16 => .d16 (bs.getD 1 0#8 ++ bs.getD 0 0#8)
  | .w32 => .d32 (bs.getD 3 0#8 ++ bs.getD 2 0#8 ++ bs.getD 1 0#8 ++ bs.getD 0 0#8)

/-- Data goes back to the host. -/
def State.respond (s : State) (d : BusData) : State := { s with hostReads := s.hostReads ++ [d] }

/-- A read of STATUS (10_state.md R35). While BUSY = 1, SSTATE and FRAME_AVAIL are free values and the other fields are
defined (70_reset_and_hazards.md R391; 93_implementation_defined.md U3a). -/
def State.readStatus (s : State) : State :=
  if s.busy then
    let f := Config.busyStreamBits s.draws
    { s.respond (.d32 (s.statusWith (f.extractLsb' 0 2) (f.extractLsb' 2 1))) with draws := s.draws + 1 }
  else s.respond (.d32 s.statusWord)

/-- An access to the register space must be an aligned 32-bit word (20_memory.md R83, R84). -/
def registerAccess (w : Width) (off : Nat) : Bool := w = .w32 && off % 4 = 0

/-- A host read of width w at offset off (20_memory.md R81, R83, R84; 70_reset_and_hazards.md R391). No register read has
a side effect on the block's own state (20_memory.md R88). The order of the tests is the model's where more than one
applies: outside, then width and alignment, then BUSY, then unwritten (DESIGN CHOICE, log entry 23; log entry 10). -/
def State.hostRead (s : State) (w : Width) (off : Nat) : Host.Outcome State Fault Refusal :=
  if Config.windowBase + s.params.bufSize < off + w.bytes then .refused .outsidePcb
  else if off < Config.windowBase then
    if registerAccess w off then
      match regAt off with
      | none => .next (s.respond (.d32 0#32))
      | some .status => .next s.readStatus
      | some r => if s.busy && r.readHazard then .fault .busyRead else .next (s.respond (.d32 (s.regValue r)))
    else .refused .badAccess
  else if off % w.bytes ≠ 0 then .refused .badAccess
  else if s.busy then .fault .busyRead
  else
    match s.buf.readBytes (off - Config.windowBase) w.bytes with
    | none => .fault .unwrittenRead
    | some bs => .next (s.respond (BusData.ofBytes w bs))

/-- A host write of d at offset off (20_memory.md R81, R83, R84; 70_reset_and_hazards.md R390). The order of the tests is
the model's where more than one applies: outside, then width and alignment, then BUSY (DESIGN CHOICE, log entry 23;
log entry 10). -/
def State.hostWrite (s : State) (off : Nat) (d : BusData) : Host.Outcome State Fault Refusal :=
  if Config.windowBase + s.params.bufSize < off + d.width.bytes then .refused .outsidePcb
  else if off < Config.windowBase then
    match d with
    | .d32 v =>
      if registerAccess .w32 off then
        match regAt off with
        | none => .next s
        | some r => if s.busy && !r.writableBusy then .fault .busyWrite else .next (s.writeReg r v)
      else .refused .badAccess
    | _ => .refused .badAccess
  else if off % d.width.bytes ≠ 0 then .refused .badAccess
  else if s.busy then .fault .busyWrite
  else .next (s.memWrite (off - Config.windowBase) d.toBytes)

/-- An access of n bytes, n none of the widths of 20_memory.md R83: refused, busy or not (92_eei_decisions.md D4; log
entries 23, 24). -/
def State.hostOtherWidth (s : State) (n off : Nat) : Host.Outcome State Fault Refusal :=
  if Config.windowBase + s.params.bufSize < off + n then .refused .outsidePcb else .refused .badAccess

/-- An access at platform address addr reaches offset addr - PCB_BASE (10_state.md R32). What lies below PCB_BASE is the
platform's (20_memory.md R94; log entry 2). -/
def State.onBus (s : State) (addr : Nat) (access : Nat → Host.Outcome State Fault Refusal) :
    Host.Outcome State Fault Refusal :=
  if addr < s.params.pcbBase then .refused .outsidePcb else access (addr - s.params.pcbBase)

/-- The platform's reset (70_reset_and_hazards.md R380, R381): every piece of the block's state at its reset value, a
pending command abandoned. What the outside world does next and has read stays, and so does the count of drawn values. -/
def State.platformReset (s : State) : State :=
  { State.resetWith s.params with draws := s.draws, hostQueue := s.hostQueue, hostReads := s.hostReads }

/-- WAIT (30_encoding.md R137): read STATUS, and again until BUSY reads 0. -/
def State.hostWait (s : State) : State :=
  if s.busy then { s.readStatus with hostQueue := .wait :: s.hostQueue } else s.readStatus

/-- One event of the host port, already taken from the queue. -/
def State.hostEvent (s : State) (e : HostEvent) : Host.Outcome State Fault Refusal :=
  match e with
  | .read w addr => s.onBus addr fun off => s.hostRead w off
  | .write addr d => s.onBus addr fun off => s.hostWrite off d
  | .otherWidth addr n => s.onBus addr fun off => s.hostOtherWidth n off
  | .wait => .next s.hostWait
  | .reset => .next s.platformReset

end Sys2Proof.Machine
end

