-- ==== Sys2Proof/Machine/Engine.lean ====
section
/-! DEFINITION. Sys2Proof/Machine/Engine.lean: the two agents' steps, and which of them moves (30_encoding.md R126;
log entries 3, 4). -/

namespace Sys2Proof.Machine

/-- The engine's step (30_encoding.md R126): decode PENDING, then perform the command. An illegal word is performed as a
command that raises ILLEGAL_CMD at once (30_encoding.md R124). -/
def State.engineStep (s : State) : Host.Outcome State Fault Refusal :=
  match decode s.pending with
  | .command i => exec i s
  | .illegal _ => .next (s.raise .illegalCmd)

/-- The engine moves when it has a command and its delay has passed, or when no host access is left to come first. -/
def State.engineMoves (s : State) : Bool := s.busy && (s.delay = 0 || s.hostQueue.isEmpty)

/-- The host port's step: the oldest event of the queue. One access passes of the delay of a pending command. With no
event there is nothing to do. -/
def State.hostStep (s : State) : Host.Outcome State Fault Refusal :=
  match s.hostQueue with
  | [] => .next s
  | e :: rest => { s with hostQueue := rest, delay := s.delay - 1 }.hostEvent e

/-- PENDING holds w, accepted with no delay left: the engine's next step performs it. -/
def State.withPending (s : State) (w : Word) : State := { s.accept w with delay := 0 }

end Sys2Proof.Machine
end

