-- ==== Sys2Proof/Machine/Step.lean ====
section
/-! DEFINITION. Sys2Proof/Machine/Step.lean: one step of the block. -/

namespace Sys2Proof.Machine

/-- One step: of the engine, if it moves, and of the host port otherwise. Each is atomic (20_memory.md R87). -/
def step (s : State) : Host.Outcome State Fault Refusal := if s.engineMoves then s.engineStep else s.hostStep

/-- The command word w accepted, with its delay passed: the next step performs it (log entry 13). The PCB fetches nothing:
PENDING is where the engine takes its command from (10_state.md R48; 20_memory.md R92). -/
def State.withFetchWord (s : State) (nbits w : Nat) : State := s.withPending (BitVec.ofNat 32 (w % 2 ^ nbits))

end Sys2Proof.Machine
end

