-- ==== Sys2Proof/Machine/HostScript.lean ====
section
/-! DEFINITION. Sys2Proof/Machine/HostScript.lean: the host script lines and macros (30_encoding.md R137, R138), each the
list of host events it stands for. `base` is PCB_BASE, at which the platform has placed the block. -/

namespace Sys2Proof.Machine

/-- `W <reg>, <v>` (30_encoding.md R137). -/
def lineW (base : Nat) (r : Reg) (v : Word) : List HostEvent := [.write (base + r.offset) (.d32 v)]

/-- `WB <a>, <b0> <b1> ...` (30_encoding.md R137). -/
def lineWB (base : Nat) : Nat → List Byte → List HostEvent
  | _, [] => []
  | a, b :: bs => .write (base + (Config.windowBase + a)) (.d8 b) :: lineWB base (a + 1) bs

/-- `W32B <a>, <v>` (30_encoding.md R137). -/
def lineW32B (base a : Nat) (v : Word) : List HostEvent := [.write (base + (Config.windowBase + a)) (.d32 v)]

/-- `R <reg>` (30_encoding.md R137). -/
def lineR (base : Nat) (r : Reg) : List HostEvent := [.read .w32 (base + r.offset)]

/-- `CMD <mnemonic>[.E or .D]` (30_encoding.md R137). -/
def lineCMD (base : Nat) (i : Instr) : List HostEvent := [.write (base + Reg.cmd.offset) (.d32 (encode i))]

/-- `WAIT` (30_encoding.md R137). -/
def lineWAIT : List HostEvent := [.wait]

/-- The operand writes of a `DO` that gives this operand, or none (30_encoding.md R138). -/
def lineOperand (base : Nat) (r : Reg) : Option Word → List HostEvent
  | none => []
  | some v => lineW base r v

/-- `DO <mn> [src=a] [dst=b] [len=c] [arg0=d] [arg1=e]` (30_encoding.md R138). -/
def macroDO (base : Nat) (i : Instr) (src dst len arg0 arg1 : Option Word) : List HostEvent :=
  lineOperand base .src src ++ lineOperand base .dst dst ++ lineOperand base .len len ++ lineOperand base .arg0 arg0 ++
    lineOperand base .arg1 arg1 ++ lineCMD base i ++ lineWAIT

/-- `TXFRAME a, b` (30_encoding.md R138). -/
def macroTXFRAME (base : Nat) (a b : Word) : List HostEvent :=
  macroDO base .smencf (some a) (some b) none none none ++ macroDO base .xorenc (some b) none none none none

/-- `RXFRAME a, b` (30_encoding.md R138). -/
def macroRXFRAME (base : Nat) (a b : Word) : List HostEvent :=
  macroDO base .xordec (some a) none none none none ++ macroDO base .smdecf (some a) (some b) none none none

/-- `LOADKEY E, k0, ..., k11` writes EKEY (30_encoding.md R138). -/
def macroLOADKEYE (base : Nat) (k : KeySet) : List HostEvent :=
  (List.finRange 12).flatMap fun j => lineW base (.ekey j) k[j.val]

/-- `LOADKEY D, k0, ..., k11` writes DKEY (30_encoding.md R138). -/
def macroLOADKEYD (base : Nat) (k : KeySet) : List HostEvent :=
  (List.finRange 12).flatMap fun j => lineW base (.dkey j) k[j.val]

/-- `LOADX32 b0, ..., b31`: word j is b(4j) | b(4j+1) << 8 | b(4j+2) << 16 | b(4j+3) << 24 (30_encoding.md R138). -/
def macroLOADX32 (base : Nat) (b : Vector Byte 32) : List HostEvent :=
  (List.finRange 8).flatMap fun j =>
    lineW base (.xkeyw j) (b[4 * j.val + 3] ++ b[4 * j.val + 2] ++ b[4 * j.val + 1] ++ b[4 * j.val])

end Sys2Proof.Machine
end

