-- ==== Sys2Proof/Safety.lean ====
section
/-! DEFINITION. Sys2Proof/Safety.lean: what counts as a safe state and a safe run, and the vocabulary the statements are
written in. -/

namespace Sys2Proof.Machine

/-! ## The invariant of a PCB -/

/-- What holds of every state a run reaches. -/
structure Inv (s : State) : Prop where
  /-- BUF keeps its canonical form. -/
  bufCanonical : s.buf.wf = true
  /-- Only addresses below BUF_SIZE are ever written (20_memory.md R82). -/
  bufInRange : ∀ c ∈ s.buf, c.1 < s.params.bufSize
  /-- SB holds at most STREAM_CAP bytes (10_state.md R46). -/
  streamBounded : s.sb.length ≤ s.params.streamCap
  /-- While a command is pending, DONE, ERR and ERRCODE are clear (30_encoding.md R125). -/
  busyClear : s.busy = true → s.done = false ∧ s.err = false ∧ s.errCode = .none
  /-- ERR is set exactly when ERRCODE names an error (30_encoding.md R127). -/
  errHasCode : s.err = true ↔ s.errCode ≠ .none
  /-- ERR is set only when a command has completed (10_state.md R35). -/
  errIsDone : s.err = true → s.done = true

/-- A run of k steps that meets no fault and no refusal: the host wrote every BUF byte it read or handed to a command
(70_reset_and_hazards.md R382), kept away from the hazards of R390 and R391, and used only the accesses of
20_memory.md R81 and R83. -/
def safeRun (k : Nat) (s : State) : Prop := ∃ t, Host.Core.run Sys2Proof.core k s = .next t

/-! ## What a command leaves, in the spec's own terms (30_encoding.md R127; 60_exceptions.md R344) -/

/-- Success with given results: BUSY <- 0, DONE <- 1, ERR <- 0, ERRCODE <- 0, and the two result registers. -/
def succeed (s : State) (r0 r1 : Word) : State :=
  { s with busy := false, done := true, err := false, errCode := .none, result0 := r0, result1 := r1 }

/-- Error e: BUSY <- 0, DONE <- 1, ERR <- 1, ERRCODE <- e, ERRACC <- 1, and nothing else. -/
def failWith (s : State) (e : ErrCode) : State :=
  { s with busy := false, done := true, err := true, errCode := e, errAcc := true }

/-- The bytes bs stand in the buffer from address a. -/
def holdsAt (m : Memory) (a : Nat) (bs : List Byte) : Prop := ∀ j b, bs[j]? = some b → m.read (a + j) = some b

/-- A byte of the n bytes from address a has never been written. -/
def unwrittenIn (m : Memory) (a n : Nat) : Prop := ∃ j, j < n ∧ m.read (a + j) = none

/-- m' is m after the bytes bs are stored from address a: every byte stored, and every other byte as it was. -/
def storesOnly (m m' : Memory) (a : Nat) (bs : List Byte) : Prop :=
  holdsAt m' a bs ∧ ∀ x, x < a ∨ a + bs.length ≤ x → m'.read x = m.read x

/-- Every byte reads as before. -/
def storesNothing (m m' : Memory) : Prop := ∀ x, m'.read x = m.read x

/-- One of the modulus words K[0..3] is 0 (10_state.md R39). -/
def zeroModulus (k : KeySet) : Prop := ∃ i : Fin 4, modWord k i = 0#32

/-- The matching key condition of 42_simple_modulus.md R212. -/
def matchingKeys (k d : KeySet) : Prop :=
  ∀ i : Fin 4,
    modWord d i = modWord k i ∧ xorWord d i = xorWord k i ∧
    (xorWord k i ||| 0xFFFF#32).toNat < (modWord k i).toNat ∧ (modWord k i).toNat ≤ 2 ^ 18 ∧
    (mulWord k i).toNat * (mulWord d i).toNat % (modWord k i).toNat = 1 ∧
    (xorWord k i ||| 0xFFFF#32).toNat * (mulWord k i).toNat < 2 ^ 32 ∧
    ((modWord k i).toNat - 1) * (mulWord d i).toNat < 2 ^ 32

/-! ## The decoded blocks of an encrypted frame (42_simple_modulus.md R215, R217) -/

/-- A decoded block that passes the checks of 42_simple_modulus.md R217: its checksum matches or is tolerated, and its size
is 1 to 8. -/
def blockAccepted (accept : Bool) (p : Plain) : Prop := (p.ok = true ∨ accept = true) ∧ 1 ≤ p.n ∧ p.n ≤ 8

/-- The content of decoded blocks: each contributes its first n bytes (42_simple_modulus.md R215). -/
def contentOf (ps : List Plain) : List Byte := ps.flatMap fun p => p.o.take p.n

/-- A block's checksum did not match. -/
def anyMismatch (ps : List Plain) : Bool := ps.any fun p => !p.ok

/-! ## Feeding a stream in chunks (45_stream_reader.md R306) -/

/-- The host places a chunk at SRC, sets LEN, and issues STRFEED. -/
def feedChunk (s : State) (c : List Byte) : State :=
  match exec .strfeed { s with buf := s.buf.writeBytes s.src.toNat c, len := BitVec.ofNat 32 c.length } with
  | .next t => t
  | _ => s

/-- Repeat STRNEXT until it returns RESULT0 = 0 or fails, at most n times: the frames delivered at DST, in order. -/
def pullFrames : Nat → State → List (List Byte) × State
  | 0, s => ([], s)
  | n + 1, s =>
    match exec .strnext s with
    | .next t =>
      if t.err = true ∨ t.result0 = 0#32 then ([], t)
      else
        let r := pullFrames n t
        ((t.buf.readBytes s.dst.toNat t.result0.toNat).getD [] :: r.1, r.2)
    | _ => ([], s)

/-- Feed each chunk, and after each feed pull every frame there is; the bound on pulls is one more than the bytes held. -/
def feedChunks : List (List Byte) → State → List (List Byte) × State
  | [], s => ([], s)
  | c :: cs, s =>
    let r := pullFrames (s.sb.length + c.length + 1) (feedChunk s c)
    let q := feedChunks cs r.2
    (r.1 ++ q.1, q.2)

end Sys2Proof.Machine
end

