-- ==== Sys2Proof/Certificates/Slice0/Obligations.lean ====
section
/-! DEFINITION. Sys2Proof/Certificates/Slice0/Obligations.lean: the statements for the provers. Each docstring names the rule
of spec/ it formalises. -/

open Sys2Proof Sys2Proof.Machine

/-! ## Encoding -/

/-- 30_encoding.md R120, R122, both directions: a word decodes to a command exactly when it is that command's word, so no
two words mean one command and no bit of a word is dropped. -/
def Obligations.DecodeAnswersExactlyTheEncodedCommand : Prop :=
  ∀ (w : Word) (i : Instr), decode w = .command i ↔ w = encode i

/-- 30_encoding.md R124: which words are legal, and what the engine does with an illegal one, whatever the operands. The
list is every OP of R122, so every other value is reserved. -/
def Obligations.LegalWordsDecodeAndOthersRaiseIllegalCmd : Prop :=
  (∀ w : Word,
    (∃ i, decode w = .command i) ↔
      (w.extractLsb' 0 8).toNat ∈ [0x00, 0x01, 0x02, 0x03, 0x04, 0x05, 0x08, 0x09, 0x0A, 0x10, 0x11, 0x12, 0x13, 0x18, 0x19,
        0x20, 0x21, 0x30, 0x31, 0x32, 0x33] ∧
      (∀ b, 9 ≤ b → b ≤ 31 → w.getLsbD b = false) ∧
      (w.getLsbD 8 = true → (w.extractLsb' 0 8).toNat = 0x20 ∨ (w.extractLsb' 0 8).toNat = 0x21)) ∧
  (∀ s : State, (∀ i, decode s.pending ≠ .command i) → s.engineStep = .next (failWith s .illegalCmd))

/-- 30_encoding.md R122: the command words written out. -/
def Obligations.CommandWordsOfTheOpcodeMap : Prop :=
  decode 0x00000000#32 = .command .nop ∧ decode 0x00000001#32 = .command .hdrsize ∧
  decode 0x00000002#32 = .command .declen ∧ decode 0x00000003#32 = .command .pkttype ∧
  decode 0x00000004#32 = .command .pktsub ∧ decode 0x00000005#32 = .command .wrhdr ∧
  decode 0x00000008#32 = .command .encsize ∧ decode 0x00000009#32 = .command .decsize ∧
  decode 0x0000000A#32 = .command .shift ∧ decode 0x00000010#32 = .command .smencb ∧
  decode 0x00000011#32 = .command .smdecb ∧ decode 0x00000012#32 = .command .smencf ∧
  decode 0x00000013#32 = .command .smdecf ∧ decode 0x00000018#32 = .command .xorenc ∧
  decode 0x00000019#32 = .command .xordec ∧ decode 0x00000020#32 = .command (.ctrinc .ectr) ∧
  decode 0x00000120#32 = .command (.ctrinc .dctr) ∧ decode 0x00000021#32 = .command (.ctrrst .ectr) ∧
  decode 0x00000121#32 = .command (.ctrrst .dctr) ∧ decode 0x00000030#32 = .command .strfeed ∧
  decode 0x00000031#32 = .command .strnext ∧ decode 0x00000032#32 = .command .strclose ∧
  decode 0x00000033#32 = .command .strreset

/-! ## Steps -/

/-- 30_encoding.md R126, 20_memory.md R89: a step. When the engine moves and PENDING decodes to i, the step is exec of i (an
illegal word raises ILLEGAL_CMD); otherwise the oldest host event is performed, one access of the delay passing; with no event and no command nothing happens.
Which agent moves is decided by the model's own field `delay` (log entries 3, 4, 14). -/
def Obligations.StepRunsThePendingCommandOrTheNextHostEvent : Prop :=
  (∀ (s : State) (i : Instr), s.busy = true → s.delay = 0 ∨ s.hostQueue = [] → decode s.pending = .command i →
    step s = exec i s) ∧
  (∀ s : State, s.busy = true → s.delay = 0 ∨ s.hostQueue = [] → (∀ i, decode s.pending ≠ .command i) →
    step s = .next (failWith s .illegalCmd)) ∧
  (∀ (s : State) (e : HostEvent) (rest : List HostEvent) (d : Nat), s.hostQueue = e :: rest → s.busy = true →
    s.delay = d + 1 → step s = { s with hostQueue := rest, delay := d }.hostEvent e) ∧
  (∀ (s : State) (e : HostEvent) (rest : List HostEvent), s.hostQueue = e :: rest → s.busy = false →
    step s = { s with hostQueue := rest, delay := s.delay - 1 }.hostEvent e) ∧
  (∀ s : State, s.hostQueue = [] → s.busy = false → step s = .next s)

/-- 30_encoding.md R137 and 70_reset_and_hazards.md R395: a WAIT at the head of the queue reads STATUS once for each access
of the delay, changes nothing a command reads, and then the engine's step is next: no command is put off for ever. The
counts are the model's choices: the delay is counted in accesses (log entry 3), WAIT is an event kept at the head of the
queue (log entry 17), each busy STATUS read draws one free value (log entry 5), and reads are recorded (log entry 4). -/
def Obligations.WaitLeadsToTheEngineStep : Prop :=
  ∀ (s : State) (rest : List HostEvent), s.busy = true → s.hostQueue = .wait :: rest →
    ∃ (reads : List BusData) (t : State), reads.length = s.delay ∧
      t = { s with delay := 0, draws := s.draws + s.delay, hostReads := s.hostReads ++ reads } ∧
      Host.Core.run Sys2Proof.core s.delay s = .next t ∧ step t = t.engineStep ∧
      ∀ d ∈ reads, ∃ v, d = .d32 v ∧ v.getLsbD 0 = true

/-! ## Reset and invariants -/

/-- 70_reset_and_hazards.md R381, 10_state.md R43: every piece of state after reset, for both key roles and any key tables.
Of PENDING and of the model's own fields nothing is stated: the spec gives them no value (log entries 6 and 20). -/
def Obligations.ResetValuesOfAllState : Prop :=
  ∀ p : Params,
    let s := State.resetWith p
    s.params = p ∧ s.regValue .id = 0x50434231#32 ∧ s.regValue .ctrl = 0#32 ∧ s.regValue .status = 0#32 ∧
    s.regValue .src = 0#32 ∧ s.regValue .dst = 0#32 ∧ s.regValue .len = 0#32 ∧ s.regValue .arg0 = 0#32 ∧
    s.regValue .arg1 = 0#32 ∧ s.regValue .result0 = 0#32 ∧ s.regValue .result1 = 0#32 ∧
    s.regValue .streamLevel = 0#32 ∧ s.regValue .ectrCount = 0#32 ∧ s.regValue .ectrMin = 0#32 ∧
    s.regValue .ectrMax = 255#32 ∧ s.regValue .dctrCount = 0#32 ∧ s.regValue .dctrMin = 0#32 ∧
    s.regValue .dctrMax = 255#32 ∧ s.sb = [] ∧ s.sstate = .opened ∧ (∀ a, s.buf.read a = none) ∧
    (p.keyRole = .server → s.ekey = p.keyTables.s2cEnc ∧ s.dkey = p.keyTables.c2sDec) ∧
    (p.keyRole = .client → s.ekey = p.keyTables.c2sEnc ∧ s.dkey = p.keyTables.s2cDec) ∧
    s.xkeyw = p.keyTables.xkeyw

/-- 00_scope.md R6, 10_state.md R40, R41: the default parameters, and the key store of `State.reset`. The words of the tables
and the bytes of the XOR key are what the spec marks as from general knowledge (GK1 and GK2, log entry 7). -/
def Obligations.DefaultParametersAndKeyTables : Prop :=
  State.reset.params.bufSize = 131072 ∧ State.reset.params.streamCap = 131072 ∧
  State.reset.params.encMixOrder = .desc ∧ State.reset.params.keyRole = .server ∧
  State.reset.params.keyTables = defaultKeyTables ∧
  defaultKeyTables.s2cEnc = #v[73326, 109989, 98843, 171058, 13169, 19036, 35482, 29587, 62004, 64409, 35374, 64599] ∧
  defaultKeyTables.s2cDec = #v[73326, 109989, 98843, 171058, 18035, 30340, 24701, 11141, 62004, 64409, 35374, 64599] ∧
  defaultKeyTables.c2sEnc = #v[128079, 164742, 70235, 106898, 23489, 11911, 19816, 13647, 48413, 46165, 15171, 37433] ∧
  defaultKeyTables.c2sDec = #v[128079, 164742, 70235, 106898, 31544, 2047, 57011, 10183, 48413, 46165, 15171, 37433] ∧
  State.reset.ekey = defaultKeyTables.s2cEnc ∧ State.reset.dkey = defaultKeyTables.c2sDec ∧
  (List.range 32).map (x32 State.reset.xkeyw) =
    [0xE7, 0x6D, 0x3A, 0x89, 0xBC, 0xB2, 0x9F, 0x73, 0x23, 0xA8, 0xFE, 0xB6, 0x49, 0x5D, 0x39, 0x5D,
     0x8A, 0xCB, 0x63, 0x8D, 0xEA, 0x7D, 0x2B, 0x5F, 0xC3, 0xB1, 0xE9, 0x83, 0x29, 0x51, 0xE8, 0x56]

/-- 70_reset_and_hazards.md R380: a reset gives every piece of state its reset value; a pending command is abandoned, with
none of its writes and no error. What the host still has to do and has read stays (log entry 12). -/
def Obligations.PlatformResetAbandonsThePendingCommand : Prop :=
  ∀ (s : State) (rest : List HostEvent), s.hostQueue = .reset :: rest → s.busy = false ∨ s.delay ≠ 0 →
    step s = .next { State.resetWith s.params with draws := s.draws, hostQueue := rest, hostReads := s.hostReads }

/-- The invariant holds at reset. -/
def Obligations.InvariantHoldsAtReset : Prop := ∀ p : Params, Inv (State.resetWith p)

/-- Every step, of the engine or of the host port, keeps the invariant: BUF canonical and inside BUF_SIZE, SB inside
STREAM_CAP, and STATUS consistent. -/
def Obligations.EveryStepKeepsTheInvariant : Prop := ∀ s t : State, Inv s → step s = .next t → Inv t

/-! ## Completion and errors, for every command -/

/-- 30_encoding.md R127 and R128, 60_exceptions.md R344: a command that ends (one that meets an unwritten byte does not) has
BUSY = 0 and DONE = 1; a failing one changes nothing but STATUS and the two writes R128 names. -/
def Obligations.EndedCommandsClearBusyAndErrorsArePrecise : Prop :=
  ∀ (i : Instr) (s t : State), exec i s = .next t →
    t.busy = false ∧ t.done = true ∧
    ((t.err = false ∧ t.errCode = .none ∧ t.errAcc = s.errAcc) ∨
     (t.err = true ∧ t.errCode ≠ .none ∧
      t = { failWith s t.errCode with sstate := t.sstate, csumWarn := t.csumWarn } ∧
      (t.sstate = s.sstate ∨
        i = .strnext ∧ t.sstate = .terminated ∧ (t.errCode = .invalidHeaderMarker ∨ t.errCode = .invalidLength)) ∧
      (i = .strnext ∧ (t.errCode = .invalidHeaderMarker ∨ t.errCode = .invalidLength) → t.sstate = .terminated) ∧
      (t.csumWarn = s.csumWarn ∨
        (i = .smdecb ∨ i = .smdecf) ∧ s.acceptBadCsum = true ∧ t.csumWarn = true)))

/-- 60_exceptions.md R340: the code values, and the codes each command can raise. -/
def Obligations.ErrorCodesAndWhoRaisesThem : Prop :=
  [ErrCode.none, .invalidHeaderMarker, .invalidBlockChecksum, .counterMismatch, .invalidLength, .lengthOverflow, .blockSize,
    .bufRange, .keyInvalid, .streamState, .streamOverflow, .illegalCmd].map ErrCode.code =
    [0x00, 0x01, 0x02, 0x03, 0x04, 0x05, 0x06, 0x07, 0x08, 0x09, 0x0A, 0x0F] ∧
  ∀ (i : Instr) (s t : State), exec i s = .next t → t.err = true →
    match t.errCode with
    | .none => False
    | .invalidHeaderMarker =>
      i ∈ [.pkttype, .pktsub, .wrhdr, .encsize, .decsize, .smencf, .smdecf, .xorenc, .xordec, .strnext]
    | .invalidBlockChecksum => i ∈ [.smdecb, .smdecf]
    | .counterMismatch => i = .smdecf
    | .invalidLength =>
      i ∈ [.pkttype, .pktsub, .wrhdr, .encsize, .decsize, .smencf, .smdecf, .xorenc, .xordec, .strnext]
    | .lengthOverflow => i ∈ [.encsize, .smencf]
    | .blockSize => i ∈ [.smencb, .smdecb, .smdecf]
    | .bufRange =>
      i ∈ [.hdrsize, .declen, .pkttype, .pktsub, .wrhdr, .encsize, .decsize, .shift, .smencb, .smdecb, .smencf, .smdecf,
        .xorenc, .xordec, .strfeed, .strnext]
    | .keyInvalid => i ∈ [.smencb, .smdecb, .smencf, .smdecf]
    | .streamState => i ∈ [.strfeed, .strnext]
    | .streamOverflow => i = .strfeed
    | .illegalCmd => False

/-! ## Frames, for every command -/

/-- What no command writes: the parameters, CTRL, the operand registers, the key store, OVERRUN, PENDING, the counters'
windows, and what stands outside the block; and RESULT0 and RESULT1 keep their values under NOP. -/
def Obligations.CommandsLeaveOperandsAndKeysAlone : Prop :=
  ∀ (i : Instr) (s t : State), exec i s = .next t →
    t.params = s.params ∧ t.acceptBadCsum = s.acceptBadCsum ∧ t.overrun = s.overrun ∧
    t.src = s.src ∧ t.dst = s.dst ∧ t.len = s.len ∧ t.arg0 = s.arg0 ∧ t.arg1 = s.arg1 ∧
    t.ekey = s.ekey ∧ t.dkey = s.dkey ∧ t.xkeyw = s.xkeyw ∧ t.pending = s.pending ∧
    t.ectr.min = s.ectr.min ∧ t.ectr.max = s.ectr.max ∧ t.dctr.min = s.dctr.min ∧ t.dctr.max = s.dctr.max ∧
    t.delay = s.delay ∧ t.draws = s.draws ∧ t.hostQueue = s.hostQueue ∧ t.hostReads = s.hostReads ∧
    (i = .nop → t.result0 = s.result0 ∧ t.result1 = s.result1) ∧
    (i ≠ .smdecb → i ≠ .smdecf → t.csumWarn = s.csumWarn) ∧
    (i ≠ .strfeed → i ≠ .strnext → i ≠ .strreset → t.sb = s.sb)

/-- 42_simple_modulus.md R219, 40_counter.md R164: the only commands that change a counter's COUNT, and no failed one. -/
def Obligations.CountersAdvanceOnlyOnSuccess : Prop :=
  ∀ (i : Instr) (s t : State), exec i s = .next t →
    (t.ectr = s.ectr ∨ i = .ctrinc .ectr ∨ i = .ctrrst .ectr ∨
      (i = .smencf ∧ t.err = false ∧ t.ectr = s.ectr.increase ∧
        ∃ m, s.buf.read s.src.toNat = some m ∧ (m = 0xC3#8 ∨ m = 0xC4#8))) ∧
    (t.dctr = s.dctr ∨ i = .ctrinc .dctr ∨ i = .ctrrst .dctr ∨
      (i = .smdecf ∧ t.err = false ∧ t.dctr = s.dctr.increase ∧
        ∃ m, s.buf.read s.src.toNat = some m ∧ (m = 0xC3#8 ∨ m = 0xC4#8))) ∧
    (i = .smencf → t.err = false → (∃ m, s.buf.read s.src.toNat = some m ∧ (m = 0xC3#8 ∨ m = 0xC4#8)) →
      t.ectr = s.ectr.increase) ∧
    (i = .smdecf → t.err = false → (∃ m, s.buf.read s.src.toNat = some m ∧ (m = 0xC3#8 ∨ m = 0xC4#8)) →
      t.dctr = s.dctr.increase) ∧
    (t.err = true → t.ectr = s.ectr ∧ t.dctr = s.dctr)

/-- Commands that store nothing leave every byte of BUF as it was, and so does every command that fails. -/
def Obligations.CommandsThatStoreNothingLeaveTheBuffer : Prop :=
  (∀ (i : Instr) (s t : State),
    i ∈ [.nop, .hdrsize, .declen, .pkttype, .pktsub, .encsize, .decsize, .ctrinc .ectr, .ctrinc .dctr, .ctrrst .ectr,
      .ctrrst .dctr, .strfeed, .strclose, .strreset] →
    exec i s = .next t → storesNothing s.buf t.buf) ∧
  (∀ (i : Instr) (s t : State), exec i s = .next t → t.err = true → storesNothing s.buf t.buf)

/-- Commands that store: every byte outside the stored bytes is as it was. The stored bytes start at DST (at SRC for the
XOR passes), and their number is the one the meaning stores: HeaderSize of the marker for WRHDR, the span of the
destination bits for SHIFT, 11 and 8 for the block commands, and the frame length RESULT0 for the frame commands,
the XOR passes and STRNEXT. -/
def Obligations.StoringCommandsChangeOnlyTheirRegion : Prop :=
  ∀ (i : Instr) (s t : State), exec i s = .next t → t.err = false →
    (i = .wrhdr → ∀ x, x < s.dstAddr ∨ s.dstAddr + headerSize s.markerOperand ≤ x → t.buf.read x = s.buf.read x) ∧
    (i = .shift → s.lenVal ≠ 0 →
      ∀ x, x < s.dstAddr ∨ s.dstAddr + bitSpan s.arg1Val s.lenVal ≤ x → t.buf.read x = s.buf.read x) ∧
    (i = .shift → s.lenVal = 0 → storesNothing s.buf t.buf) ∧
    (i = .smencb → ∀ x, x < s.dstAddr ∨ s.dstAddr + 11 ≤ x → t.buf.read x = s.buf.read x) ∧
    (i = .smdecb → ∀ x, x < s.dstAddr ∨ s.dstAddr + 8 ≤ x → t.buf.read x = s.buf.read x) ∧
    (i = .smencf ∨ i = .smdecf →
      ∀ x, x < s.dstAddr ∨ s.dstAddr + t.result0.toNat ≤ x → t.buf.read x = s.buf.read x) ∧
    (i = .xorenc ∨ i = .xordec →
      ∀ x, x ≤ s.srcAddr + t.result1.toNat ∨ s.srcAddr + t.result0.toNat ≤ x → t.buf.read x = s.buf.read x) ∧
    (i = .strnext → ∀ x, x < s.dstAddr ∨ s.dstAddr + t.result0.toNat ≤ x → t.buf.read x = s.buf.read x)

/-- 45_stream_reader.md R300: the transitions of SSTATE, and that no other event, command, host access or reset, changes
it. -/
def Obligations.StreamStateTransitions : Prop :=
  (∀ (i : Instr) (s t : State), exec i s = .next t →
    (i = .strclose → s.sstate = .opened → t.sstate = .closed) ∧
    (i = .strnext → t.err = true → t.errCode = .invalidHeaderMarker ∨ t.errCode = .invalidLength →
      (s.sstate = .opened ∨ s.sstate = .closed) ∧ t.sstate = .terminated) ∧
    (i = .strreset → t.sstate = .opened) ∧
    (t.sstate = s.sstate ∨
      (i = .strclose ∧ s.sstate = .opened) ∨
      (i = .strnext ∧ t.err = true ∧ (t.errCode = .invalidHeaderMarker ∨ t.errCode = .invalidLength)) ∨
      i = .strreset)) ∧
  (∀ (e : HostEvent) (s t : State), s.hostEvent e = .next t →
    (e = .reset → t.sstate = .opened) ∧ (e ≠ .reset → t.sstate = s.sstate)) ∧
  (∀ p : Params, (State.resetWith p).sstate = .opened)

/-! ## The host port -/

/-- 10_state.md R32: the register at each offset from PCB_BASE, and RAZ/WI at every other aligned offset of the register
space. -/
def Obligations.RegisterMapAndUnmappedOffsets : Prop :=
  (∀ r : Reg, regAt r.offset = some r) ∧ (∀ off r, regAt off = some r → off = r.offset) ∧
  [Reg.id, .ctrl, .status, .cmd, .src, .dst, .len, .arg0, .arg1, .result0, .result1, .streamLevel, .ectrCount, .ectrMin,
    .ectrMax, .dctrCount, .dctrMin, .dctrMax].map Reg.offset =
    [0x000, 0x004, 0x008, 0x00C, 0x010, 0x014, 0x018, 0x01C, 0x020, 0x024, 0x028, 0x030, 0x040, 0x044, 0x048, 0x050, 0x054,
     0x058] ∧
  (∀ j, Reg.offset (.ekey j) = 0x100 + 4 * j.val) ∧ (∀ j, Reg.offset (.dkey j) = 0x140 + 4 * j.val) ∧
  (∀ j, Reg.offset (.xkeyw j) = 0x180 + 4 * j.val) ∧
  (∀ (s : State) (off : Nat) (v : Word), off < 0x10000 → off % 4 = 0 → (∀ r : Reg, off ≠ r.offset) →
    s.hostRead .w32 off = .next { s with hostReads := s.hostReads ++ [.d32 0#32] } ∧ s.hostWrite off (.d32 v) = .next s) ∧
  (∀ (s : State) (w : Width) (d : BusData) (off : Nat),
    s.hostEvent (.read w (s.params.pcbBase + off)) = s.hostRead w off ∧
    s.hostEvent (.write (s.params.pcbBase + off) d) = s.hostWrite off d)

/-- 10_state.md R32 to R34, R37, R41, R42, R44, R47: a read-write register keeps what is written (eight bits of a counter
register, bit 0 of CTRL) and nothing else changes; a read-only register ignores the write; reading it gives it back. -/
def Obligations.RegisterWritesAndReadsBack : Prop :=
  ∀ (s : State) (v : Word), s.busy = false →
    s.hostWrite 0x000 (.d32 v) = .next s ∧
    s.hostWrite 0x004 (.d32 v) = .next { s with acceptBadCsum := v.getLsbD 0 } ∧
    s.hostWrite 0x010 (.d32 v) = .next { s with src := v } ∧
    s.hostWrite 0x014 (.d32 v) = .next { s with dst := v } ∧
    s.hostWrite 0x018 (.d32 v) = .next { s with len := v } ∧
    s.hostWrite 0x01C (.d32 v) = .next { s with arg0 := v } ∧
    s.hostWrite 0x020 (.d32 v) = .next { s with arg1 := v } ∧
    s.hostWrite 0x024 (.d32 v) = .next s ∧ s.hostWrite 0x028 (.d32 v) = .next s ∧ s.hostWrite 0x030 (.d32 v) = .next s ∧
    s.hostWrite 0x040 (.d32 v) = .next { s with ectr := { s.ectr with count := v.extractLsb' 0 8 } } ∧
    s.hostWrite 0x044 (.d32 v) = .next { s with ectr := { s.ectr with min := v.extractLsb' 0 8 } } ∧
    s.hostWrite 0x048 (.d32 v) = .next { s with ectr := { s.ectr with max := v.extractLsb' 0 8 } } ∧
    s.hostWrite 0x050 (.d32 v) = .next { s with dctr := { s.dctr with count := v.extractLsb' 0 8 } } ∧
    s.hostWrite 0x054 (.d32 v) = .next { s with dctr := { s.dctr with min := v.extractLsb' 0 8 } } ∧
    s.hostWrite 0x058 (.d32 v) = .next { s with dctr := { s.dctr with max := v.extractLsb' 0 8 } } ∧
    (∀ j : Fin 12, s.hostWrite (0x100 + 4 * j.val) (.d32 v) = .next { s with ekey := s.ekey.set j.val v }) ∧
    (∀ j : Fin 12, s.hostWrite (0x140 + 4 * j.val) (.d32 v) = .next { s with dkey := s.dkey.set j.val v }) ∧
    (∀ j : Fin 8, s.hostWrite (0x180 + 4 * j.val) (.d32 v) = .next { s with xkeyw := s.xkeyw.set j.val v }) ∧
    (∀ r : Reg, s.hostRead .w32 r.offset = .next { s with hostReads := s.hostReads ++ [.d32 (s.regValue r)] }) ∧
    s.regValue .id = 0x50434231#32 ∧ (s.regValue .ctrl).toNat = s.acceptBadCsum.toNat ∧ s.regValue .cmd = 0#32 ∧
    s.regValue .src = s.src ∧ s.regValue .dst = s.dst ∧ s.regValue .len = s.len ∧ s.regValue .arg0 = s.arg0 ∧
    s.regValue .arg1 = s.arg1 ∧ s.regValue .result0 = s.result0 ∧ s.regValue .result1 = s.result1 ∧
    s.regValue .streamLevel = BitVec.ofNat 32 s.sb.length ∧
    (s.regValue .ectrCount).toNat = s.ectr.count.toNat ∧ (s.regValue .ectrMin).toNat = s.ectr.min.toNat ∧
    (s.regValue .ectrMax).toNat = s.ectr.max.toNat ∧ (s.regValue .dctrCount).toNat = s.dctr.count.toNat ∧
    (s.regValue .dctrMin).toNat = s.dctr.min.toNat ∧ (s.regValue .dctrMax).toNat = s.dctr.max.toNat ∧
    (∀ j : Fin 12, s.regValue (.ekey j) = s.ekey[j.val]) ∧ (∀ j : Fin 12, s.regValue (.dkey j) = s.dkey[j.val]) ∧
    (∀ j : Fin 8, s.regValue (.xkeyw j) = s.xkeyw[j.val])

/-- 10_state.md R35: where each field of STATUS stands. -/
def Obligations.StatusFieldLayout : Prop :=
  ∀ s : State,
    s.statusWord.getLsbD 0 = s.busy ∧ s.statusWord.getLsbD 1 = s.done ∧ s.statusWord.getLsbD 2 = s.err ∧
    s.statusWord.getLsbD 3 = s.errAcc ∧ s.statusWord.getLsbD 4 = s.csumWarn ∧ s.statusWord.getLsbD 5 = s.overrun ∧
    (s.statusWord.extractLsb' 6 2).toNat =
      (match s.sstate with
       | .opened => 0
       | .terminated => 1
       | .closed => 2) ∧
    s.statusWord.extractLsb' 8 8 = s.errCode.code ∧ s.statusWord.getLsbD 16 = s.frameAvail ∧
    ∀ b, 17 ≤ b → s.statusWord.getLsbD b = false

/-- 10_state.md R36: a write to STATUS clears the sticky bits whose bit is 1 and changes no other bit, busy or not. -/
def Obligations.StatusWriteClearsStickyBits : Prop :=
  ∀ (s : State) (v : Word), ∃ t, s.hostWrite 0x008 (.d32 v) = .next t ∧
    t = { s with errAcc := t.errAcc, csumWarn := t.csumWarn, overrun := t.overrun } ∧
    (v.getLsbD 3 = true → t.errAcc = false) ∧ (v.getLsbD 3 = false → t.errAcc = s.errAcc) ∧
    (v.getLsbD 4 = true → t.csumWarn = false) ∧ (v.getLsbD 4 = false → t.csumWarn = s.csumWarn) ∧
    (v.getLsbD 5 = true → t.overrun = false) ∧ (v.getLsbD 5 = false → t.overrun = s.overrun)

/-- 30_encoding.md R125: a CMD write is accepted while BUSY = 0 and dropped with OVERRUN while BUSY = 1. Nothing is said of
the model's own fields `delay` and `draws` (log entry 3): the delay drawn is a free value. -/
def Obligations.CmdWriteIsAcceptedOrDropped : Prop :=
  ∀ (s : State) (w : Word),
    (s.busy = false → ∃ delay draws, s.hostWrite 0x00C (.d32 w) =
      .next { s with busy := true, done := false, err := false, errCode := .none, pending := w, delay := delay,
                     draws := draws }) ∧
    (s.busy = true → s.hostWrite 0x00C (.d32 w) = .next { s with overrun := true })

/-- 20_memory.md R81, R83: naturally aligned window accesses of 8, 16 and 32 bits, little-endian; and 70_reset_and_hazards.md
R382: a window read of an unwritten byte is a fault. -/
def Obligations.WindowAccessesAreLittleEndian : Prop :=
  ∀ (s : State) (a : Nat), s.busy = false →
    (∀ b0 : BitVec 8, a + 1 ≤ s.params.bufSize →
      ∃ m, s.hostWrite (0x10000 + a) (.d8 b0) = .next { s with buf := m } ∧ storesOnly s.buf m a [b0]) ∧
    (∀ b0 b1 : BitVec 8, a % 2 = 0 → a + 2 ≤ s.params.bufSize →
      ∃ m, s.hostWrite (0x10000 + a) (.d16 (b1 ++ b0)) = .next { s with buf := m } ∧ storesOnly s.buf m a [b0, b1]) ∧
    (∀ b0 b1 b2 b3 : BitVec 8, a % 4 = 0 → a + 4 ≤ s.params.bufSize →
      ∃ m, s.hostWrite (0x10000 + a) (.d32 (b3 ++ b2 ++ b1 ++ b0)) = .next { s with buf := m } ∧
        storesOnly s.buf m a [b0, b1, b2, b3]) ∧
    (∀ b0, a + 1 ≤ s.params.bufSize → holdsAt s.buf a [b0] →
      s.hostRead .w8 (0x10000 + a) = .next { s with hostReads := s.hostReads ++ [.d8 b0] }) ∧
    (∀ b0 b1, a % 2 = 0 → a + 2 ≤ s.params.bufSize → holdsAt s.buf a [b0, b1] →
      s.hostRead .w16 (0x10000 + a) = .next { s with hostReads := s.hostReads ++ [.d16 (b1 ++ b0)] }) ∧
    (∀ b0 b1 b2 b3, a % 4 = 0 → a + 4 ≤ s.params.bufSize → holdsAt s.buf a [b0, b1, b2, b3] →
      s.hostRead .w32 (0x10000 + a) = .next { s with hostReads := s.hostReads ++ [.d32 (b3 ++ b2 ++ b1 ++ b0)] }) ∧
    (∀ w : Width, a % w.bytes = 0 → a + w.bytes ≤ s.params.bufSize → unwrittenIn s.buf a w.bytes →
      s.hostRead w (0x10000 + a) = .fault .unwrittenRead)

/-- 20_memory.md R81, R83, R84 and 92_eei_decisions.md D4 (U4, U11): the accesses that are refused: those not inside the
block, and those of a wrong width or alignment. Inferred or chosen by the model: what lies below PCB_BASE is outside (log
entry 2); an access that only crosses the end is outside, that test comes before alignment, and a byte access to an
unmapped offset is refused (log entry 10); all of it whether BUSY or not (log entry 23); the form of an access of another
width (log entry 24). -/
def Obligations.MisalignedAndOutsideAccessesAreRefused : Prop :=
  (∀ (s : State) (w : Width) (off : Nat), off < 0x10000 → w ≠ .w32 ∨ off % 4 ≠ 0 →
    off + w.bytes ≤ 0x10000 + s.params.bufSize → s.hostRead w off = .refused .badAccess) ∧
  (∀ (s : State) (d : BusData) (off : Nat), off < 0x10000 → d.width ≠ .w32 ∨ off % 4 ≠ 0 →
    off + d.width.bytes ≤ 0x10000 + s.params.bufSize → s.hostWrite off d = .refused .badAccess) ∧
  (∀ (s : State) (w : Width) (off : Nat), 0x10000 ≤ off → off % w.bytes ≠ 0 →
    off + w.bytes ≤ 0x10000 + s.params.bufSize → s.hostRead w off = .refused .badAccess) ∧
  (∀ (s : State) (d : BusData) (off : Nat), 0x10000 ≤ off → off % d.width.bytes ≠ 0 →
    off + d.width.bytes ≤ 0x10000 + s.params.bufSize → s.hostWrite off d = .refused .badAccess) ∧
  (∀ (s : State) (w : Width) (off : Nat), 0x10000 + s.params.bufSize < off + w.bytes →
    s.hostRead w off = .refused .outsidePcb) ∧
  (∀ (s : State) (d : BusData) (off : Nat), 0x10000 + s.params.bufSize < off + d.width.bytes →
    s.hostWrite off d = .refused .outsidePcb) ∧
  (∀ (s : State) (w : Width) (d : BusData) (n addr : Nat), addr < s.params.pcbBase →
    s.hostEvent (.read w addr) = .refused .outsidePcb ∧ s.hostEvent (.write addr d) = .refused .outsidePcb ∧
    s.hostEvent (.otherWidth addr n) = .refused .outsidePcb) ∧
  (∀ (s : State) (n off : Nat),
    (off + n ≤ 0x10000 + s.params.bufSize →
      s.hostEvent (.otherWidth (s.params.pcbBase + off) n) = .refused .badAccess) ∧
    (0x10000 + s.params.bufSize < off + n →
      s.hostEvent (.otherWidth (s.params.pcbBase + off) n) = .refused .outsidePcb))

/-- 70_reset_and_hazards.md R390 (U2): while BUSY = 1 a write to any register but STATUS and CMD, or to the window, is a
fault. That the read-only registers count among them is inferred (DEDUCED, log entry 11). -/
def Obligations.WritesWhileBusyAreFaults : Prop :=
  ∀ s : State, s.busy = true →
    (∀ (r : Reg) (v : Word), r ≠ .status → r ≠ .cmd → s.hostWrite r.offset (.d32 v) = .fault .busyWrite) ∧
    (∀ (a : Nat) (d : BusData), a % d.width.bytes = 0 → a + d.width.bytes ≤ s.params.bufSize →
      s.hostWrite (0x10000 + a) d = .fault .busyWrite)

/-- 70_reset_and_hazards.md R391 (U3, U3a): reads while BUSY = 1. Of SSTATE and FRAME_AVAIL nothing is said. That a window
read of an unwritten byte, which U1 makes a fault too, is busyRead and not unwrittenRead is the model's choice (DESIGN
CHOICE, log entry 23). -/
def Obligations.ReadsWhileBusy : Prop :=
  ∀ s : State, s.busy = true →
    (∀ r : Reg, r ∈ [.result0, .result1, .streamLevel, .ectrCount, .dctrCount] →
      s.hostRead .w32 r.offset = .fault .busyRead) ∧
    (∀ (a : Nat) (w : Width), a % w.bytes = 0 → a + w.bytes ≤ s.params.bufSize →
      s.hostRead w (0x10000 + a) = .fault .busyRead) ∧
    (∀ r : Reg, r ∉ [.result0, .result1, .streamLevel, .ectrCount, .dctrCount, .status] →
      s.hostRead .w32 r.offset = .next { s with hostReads := s.hostReads ++ [.d32 (s.regValue r)] }) ∧
    (∃ v draws, s.hostRead .w32 0x008 = .next { s with hostReads := s.hostReads ++ [.d32 v], draws := draws } ∧
      v.getLsbD 0 = true ∧ v.getLsbD 1 = s.done ∧ v.getLsbD 2 = s.err ∧ v.getLsbD 3 = s.errAcc ∧
      v.getLsbD 4 = s.csumWarn ∧ v.getLsbD 5 = s.overrun ∧ v.extractLsb' 8 8 = s.errCode.code ∧
      ∀ b, 17 ≤ b → v.getLsbD b = false)

/-- 20_memory.md R88: a read changes nothing of the block: only the model's own record of data returned and of free values
drawn. -/
def Obligations.ReadsHaveNoSideEffect : Prop :=
  ∀ (s t : State) (w : Width) (off : Nat), s.hostRead w off = .next t →
    ∃ d, t = { s with hostReads := s.hostReads ++ [d], draws := t.draws } ∧ d.width = w ∧
      (s.busy = false → t.draws = s.draws)

/-! ## System and framer commands -/

/-- 46_system.md R330: NOP changes nothing but the completion bits; its OP with any other bit set is ILLEGAL_CMD. -/
def Obligations.NopChangesOnlyStatus : Prop :=
  decode 0x00000000#32 = .command .nop ∧
  (∀ s : State, s.pending.extractLsb' 0 8 = 0#8 → s.pending.extractLsb' 8 24 ≠ 0#24 →
    s.engineStep = .next (failWith s .illegalCmd)) ∧
  ∀ s : State, exec .nop s = .next { s with busy := false, done := true, err := false, errCode := .none }

/-- 30_encoding.md R129, R130: the frame header's functions, byte by byte. -/
def Obligations.HeaderSizeAndDeclaredLength : Prop :=
  (∀ m : Byte,
    (m = 0xC1#8 ∨ m = 0xC3#8 → headerSize m = 2) ∧ (m = 0xC2#8 ∨ m = 0xC4#8 → headerSize m = 3) ∧
    (m ≠ 0xC1#8 → m ≠ 0xC2#8 → m ≠ 0xC3#8 → m ≠ 0xC4#8 → headerSize m = 0) ∧
    (plainMarker m = true ↔ m = 0xC1#8 ∨ m = 0xC2#8)) ∧
  (∀ b0 b1 b2 : Byte,
    (headerSize b0 = 2 → declaredLength b0 b1 b2 = b1.toNat) ∧
    (headerSize b0 = 3 → declaredLength b0 b1 b2 = (b1.toNat <<< 8) ||| b2.toNat) ∧
    (headerSize b0 = 0 → declaredLength b0 b1 b2 = 0))

/-- 44_framer.md R272: HDRSIZE. -/
def Obligations.HdrsizeGivesHeaderSizeAndMarker : Prop :=
  decode 0x00000001#32 = .command .hdrsize ∧
  ∀ s : State,
    (s.params.bufSize < s.src.toNat + 1 → exec .hdrsize s = .next (failWith s .bufRange)) ∧
    (s.src.toNat + 1 ≤ s.params.bufSize → s.buf.read s.src.toNat = none → exec .hdrsize s = .fault .unwrittenRead) ∧
    (∀ m, s.src.toNat + 1 ≤ s.params.bufSize → s.buf.read s.src.toNat = some m →
      exec .hdrsize s = .next (succeed s (BitVec.ofNat 32 (headerSize m)) (m.setWidth 32)))

/-- 44_framer.md R273: DECLEN. It always reads three bytes, and validates nothing. -/
def Obligations.DeclenGivesDeclaredLength : Prop :=
  decode 0x00000002#32 = .command .declen ∧
  ∀ s : State,
    (s.params.bufSize < s.src.toNat + 3 → exec .declen s = .next (failWith s .bufRange)) ∧
    (s.src.toNat + 3 ≤ s.params.bufSize → unwrittenIn s.buf s.src.toNat 3 → exec .declen s = .fault .unwrittenRead) ∧
    (∀ b0 b1 b2, s.src.toNat + 3 ≤ s.params.bufSize → holdsAt s.buf s.src.toNat [b0, b1, b2] →
      exec .declen s =
        .next (succeed s (BitVec.ofNat 32 (declaredLength b0 b1 b2)) (BitVec.ofNat 32 (headerSize b0))))

/-- 30_encoding.md R132: FramePrologue, its checks in order, on the bytes of the header. -/
def Obligations.FramePrologueChecksInOrder : Prop :=
  ∀ (s : State) (a : Nat) (full : Bool),
    (s.params.bufSize < a + 1 → s.framePrologue a full = .err .bufRange .nothing) ∧
    (a + 1 ≤ s.params.bufSize → s.buf.read a = none → s.framePrologue a full = .fault .unwrittenRead) ∧
    (∀ m, a + 1 ≤ s.params.bufSize → s.buf.read a = some m →
      (headerSize m = 0 → s.framePrologue a full = .err .invalidHeaderMarker .nothing) ∧
      (headerSize m ≠ 0 → s.params.bufSize < a + headerSize m → s.framePrologue a full = .err .bufRange .nothing) ∧
      (headerSize m ≠ 0 → a + headerSize m ≤ s.params.bufSize → unwrittenIn s.buf a (headerSize m) →
        s.framePrologue a full = .fault .unwrittenRead) ∧
      (∀ b1 b2, headerSize m ≠ 0 → a + headerSize m ≤ s.params.bufSize → s.buf.read (a + 1) = some b1 →
        (headerSize m = 3 → s.buf.read (a + 2) = some b2) →
        (declaredLength m b1 b2 = 0 → s.framePrologue a full = .err .invalidHeaderMarker .nothing) ∧
        (declaredLength m b1 b2 ≠ 0 → declaredLength m b1 b2 < headerSize m →
          s.framePrologue a full = .err .invalidLength .nothing) ∧
        (headerSize m ≤ declaredLength m b1 b2 → full = true → s.params.bufSize < a + declaredLength m b1 b2 →
          s.framePrologue a full = .err .bufRange .nothing) ∧
        (headerSize m ≤ declaredLength m b1 b2 → full = false ∨ a + declaredLength m b1 b2 ≤ s.params.bufSize →
          s.framePrologue a full = .ok { m := m, h := headerSize m, len := declaredLength m b1 b2 })))

/-- 44_framer.md R274, R275: PKTTYPE and PKTSUB: the prologue's errors, then their own checks. -/
def Obligations.PkttypeAndPktsubGivePayloadBytes : Prop :=
  decode 0x00000003#32 = .command .pkttype ∧ decode 0x00000004#32 = .command .pktsub ∧
  (∀ (s : State) (e : ErrCode) (w : OnError), s.framePrologue s.src.toNat false = .err e w →
    exec .pkttype s = .next (failWith s e) ∧ exec .pktsub s = .next (failWith s e)) ∧
  (∀ (s : State) (f : Fault), s.framePrologue s.src.toNat false = .fault f →
    exec .pkttype s = .fault f ∧ exec .pktsub s = .fault f) ∧
  ∀ (s : State) (p : Prologue), s.framePrologue s.src.toNat false = .ok p →
    (p.len < p.h + 1 → exec .pkttype s = .next (failWith s .invalidLength)) ∧
    (p.h + 1 ≤ p.len → s.params.bufSize < s.src.toNat + (p.h + 1) → exec .pkttype s = .next (failWith s .bufRange)) ∧
    (p.h + 1 ≤ p.len → s.src.toNat + (p.h + 1) ≤ s.params.bufSize → s.buf.read (s.src.toNat + p.h) = none →
      exec .pkttype s = .fault .unwrittenRead) ∧
    (∀ b, p.h + 1 ≤ p.len → s.src.toNat + (p.h + 1) ≤ s.params.bufSize → s.buf.read (s.src.toNat + p.h) = some b →
      exec .pkttype s = .next (succeed s (b.setWidth 32) (BitVec.ofNat 32 p.len))) ∧
    (p.len < p.h + 2 → exec .pktsub s = .next (failWith s .invalidLength)) ∧
    (p.h + 2 ≤ p.len → s.params.bufSize < s.src.toNat + (p.h + 2) → exec .pktsub s = .next (failWith s .bufRange)) ∧
    (p.h + 2 ≤ p.len → s.src.toNat + (p.h + 2) ≤ s.params.bufSize → s.buf.read (s.src.toNat + p.h + 1) = none →
      exec .pktsub s = .fault .unwrittenRead) ∧
    (∀ b, p.h + 2 ≤ p.len → s.src.toNat + (p.h + 2) ≤ s.params.bufSize → s.buf.read (s.src.toNat + p.h + 1) = some b →
      exec .pktsub s = .next (succeed s (b.setWidth 32) (BitVec.ofNat 32 p.len)))

/-- 44_framer.md R276, 30_encoding.md R131: WRHDR. -/
def Obligations.WrhdrWritesTheHeader : Prop :=
  decode 0x00000005#32 = .command .wrhdr ∧
  ∀ s : State,
    let m : Byte := s.arg0.extractLsb' 0 8
    let len := s.len.toNat
    (headerSize m = 0 → exec .wrhdr s = .next (failWith s .invalidHeaderMarker)) ∧
    (headerSize m = 2 → len = 0 ∨ 255 < len → exec .wrhdr s = .next (failWith s .invalidLength)) ∧
    (headerSize m = 3 → len = 0 ∨ 65535 < len → exec .wrhdr s = .next (failWith s .invalidLength)) ∧
    (headerSize m = 2 → 1 ≤ len → len ≤ 255 → s.params.bufSize < s.dst.toNat + 2 →
      exec .wrhdr s = .next (failWith s .bufRange)) ∧
    (headerSize m = 3 → 1 ≤ len → len ≤ 65535 → s.params.bufSize < s.dst.toNat + 3 →
      exec .wrhdr s = .next (failWith s .bufRange)) ∧
    (headerSize m = 2 → 1 ≤ len → len ≤ 255 → s.dst.toNat + 2 ≤ s.params.bufSize →
      ∃ buf, exec .wrhdr s = .next { succeed s 2#32 0#32 with buf := buf } ∧
        storesOnly s.buf buf s.dst.toNat [m, s.len.extractLsb' 0 8]) ∧
    (headerSize m = 3 → 1 ≤ len → len ≤ 65535 → s.dst.toNat + 3 ≤ s.params.bufSize →
      ∃ buf, exec .wrhdr s = .next { succeed s 3#32 0#32 with buf := buf } ∧
        storesOnly s.buf buf s.dst.toNat [m, s.len.extractLsb' 8 8, s.len.extractLsb' 0 8])

/-- 44_framer.md R276, its sentence marked [derived] (the source's property 3): WRHDR, then DECLEN at the same address, gives
the length back, over the whole legal range of each header kind. The byte after a short header must have been written, since
DECLEN reads three bytes (R382). -/
def Obligations.WrhdrThenDeclenGivesTheLengthBack : Prop :=
  ∀ s t : State, exec .wrhdr s = .next t → t.err = false → s.dst.toNat + 3 ≤ s.params.bufSize →
    t.buf.read (s.dst.toNat + 2) ≠ none →
    exec .declen { t with src := s.dst } =
      .next (succeed { t with src := s.dst } s.len (BitVec.ofNat 32 (headerSize (s.arg0.extractLsb' 0 8))))

/-! ## Size calculators and SHIFT -/

/-- 41_cipher_core.md R182, R183: ENCSIZE and DECSIZE: the prologue's errors, then their own checks. -/
def Obligations.EncsizeAndDecsizeGiveFrameSizes : Prop :=
  decode 0x00000008#32 = .command .encsize ∧ decode 0x00000009#32 = .command .decsize ∧
  (∀ (s : State) (e : ErrCode) (w : OnError), s.framePrologue s.src.toNat false = .err e w →
    exec .encsize s = .next (failWith s e) ∧ exec .decsize s = .next (failWith s e)) ∧
  (∀ (s : State) (f : Fault), s.framePrologue s.src.toNat false = .fault f →
    exec .encsize s = .fault f ∧ exec .decsize s = .fault f) ∧
  ∀ (s : State) (p : Prologue), s.framePrologue s.src.toNat false = .ok p →
    (p.m = 0xC1#8 ∨ p.m = 0xC2#8 →
      exec .encsize s = .next (succeed s (BitVec.ofNat 32 p.len) 0#32) ∧
      exec .decsize s = .next (succeed s (BitVec.ofNat 32 p.len) 0#32)) ∧
    (p.m = 0xC3#8 ∨ p.m = 0xC4#8 →
      let k := (p.len - p.h + 1 + 7) / 8
      let limit := if p.m = 0xC3#8 then 255 else 65535
      (limit < p.h + 11 * k → exec .encsize s = .next (failWith s .lengthOverflow)) ∧
      (p.h + 11 * k ≤ limit →
        exec .encsize s = .next (succeed s (BitVec.ofNat 32 (p.h + 11 * k)) (BitVec.ofNat 32 k)))) ∧
    (p.m = 0xC3#8 ∨ p.m = 0xC4#8 →
      (p.len = p.h ∨ (p.len - p.h) % 11 ≠ 0 → exec .decsize s = .next (failWith s .invalidLength)) ∧
      (∀ k, 0 < k → p.len - p.h = 11 * k →
        exec .decsize s = .next (succeed s (BitVec.ofNat 32 (p.h + 8 * k - 1)) (BitVec.ofNat 32 k))))

/-- 41_cipher_core.md R180: shift-bytes, bit by bit: the n bits are OR-ed in, every other bit is as it was. The bit order and
the merge are what the spec marks as from general knowledge (GK5, log entry 7). -/
def Obligations.ShiftBytesMergesEachBit : Prop :=
  ∀ (d src : List Byte) (dbit sbit n : Nat), dbit + n ≤ 8 * d.length →
    (shiftBytes d dbit src sbit n).length = d.length ∧
    ∀ p, bitAt (shiftBytes d dbit src sbit n) p =
      (bitAt d p || (decide (dbit ≤ p ∧ p < dbit + n) && bitAt src (sbit + (p - dbit))))

/-- 41_cipher_core.md R181: SHIFT. -/
def Obligations.ShiftCopiesBits : Prop :=
  decode 0x0000000A#32 = .command .shift ∧
  ∀ s : State,
    let n := s.len.toNat
    let ns := (s.arg0.toNat + n - 1) / 8 + 1
    let nd := (s.arg1.toNat + n - 1) / 8 + 1
    (n = 0 → exec .shift s = .next (succeed s s.arg1 0#32)) ∧
    (0 < n → s.params.bufSize < s.src.toNat + ns → exec .shift s = .next (failWith s .bufRange)) ∧
    (0 < n → s.src.toNat + ns ≤ s.params.bufSize → s.params.bufSize < s.dst.toNat + nd →
      exec .shift s = .next (failWith s .bufRange)) ∧
    (0 < n → s.src.toNat + ns ≤ s.params.bufSize → s.dst.toNat + nd ≤ s.params.bufSize →
      unwrittenIn s.buf s.src.toNat ns ∨ unwrittenIn s.buf s.dst.toNat nd → exec .shift s = .fault .unwrittenRead) ∧
    (∀ src dst : List Byte, 0 < n → s.src.toNat + ns ≤ s.params.bufSize → s.dst.toNat + nd ≤ s.params.bufSize →
      src.length = ns → dst.length = nd → holdsAt s.buf s.src.toNat src → holdsAt s.buf s.dst.toNat dst →
      ∃ buf, exec .shift s = .next { succeed s (s.arg1 + s.len) 0#32 with buf := buf } ∧
        storesOnly s.buf buf s.dst.toNat (shiftBytes dst s.arg1.toNat src s.arg0.toNat n))

/-! ## The block cipher -/

/-- 42_simple_modulus.md R201, R202, R204, R206, R209 to R211: EncBlock and DecBlock step by step, the arithmetic on unbounded
integers, and the bound of the ring words. The byte order of the words, the zero padding, the 32-bit product and the loss of
the upper half are what the spec marks as from general knowledge (GK3, GK10, GK6, GK7, log entry 7). -/
def Obligations.BlockFunctionsStepByStep : Prop :=
  (∀ (p : List Byte) (i : Nat), p.length = 8 → i < 4 →
    ∃ lo hi, p[2 * i]? = some lo ∧ p[2 * i + 1]? = some hi ∧ (plainWord p i).toNat = lo.toNat + 256 * hi.toNat) ∧
  (∀ (k : KeySet) (i : Fin 4) (c prev : Word),
    (modStep k i c prev).toNat =
      ((xorWord k i ^^^ c ^^^ prev).toNat * (mulWord k i).toNat) % 2 ^ 32 % (modWord k i).toNat) ∧
  (∀ (k : KeySet) (c : Quad),
    let r := modRing k c
    r.w0 = modStep k 0 c.w0 0#32 ∧ r.w1 = modStep k 1 c.w1 (r.w0 &&& 0xFFFF#32) ∧
    r.w2 = modStep k 2 c.w2 (r.w1 &&& 0xFFFF#32) ∧ r.w3 = modStep k 3 c.w3 (r.w2 &&& 0xFFFF#32) ∧
    (¬ zeroModulus k →
      r.w0.toNat < (modWord k 0).toNat ∧ r.w1.toNat < (modWord k 1).toNat ∧
      r.w2.toNat < (modWord k 2).toNat ∧ r.w3.toNat < (modWord k 3).toNat)) ∧
  (∀ (o : MixOrder) (k : KeySet) (b : List Byte), b.length ≤ 8 →
    let p := b ++ List.replicate (8 - b.length) 0#8
    let x := 0xF8#8 ^^^ p.foldr (· ^^^ ·) 0#8
    let c : Quad := { w0 := plainWord p 0, w1 := plainWord p 1, w2 := plainWord p 2, w3 := plainWord p 3 }
    (encodeBlock o k b).x = x ∧
    (encodeBlock o k b).eb = packBlock (mixRing o k (modRing k c)) (BitVec.ofNat 8 b.length ^^^ 0x3D#8 ^^^ x) x) ∧
  (∀ (o : MixOrder) (d : KeySet) (eb : List Byte),
    let r := unmixRing o d (unpackRing eb)
    let w := fun (i : Fin 4) (ring prev : Word) =>
      xorWord d i ^^^ BitVec.ofNat 32 ((ring.toNat * (mulWord d i).toNat) % 2 ^ 32 % (modWord d i).toNat) ^^^ prev
    let low := fun (v : Word) => BitVec.ofNat 8 v.toNat
    let high := fun (v : Word) => BitVec.ofNat 8 (v.toNat / 256)
    let w0 := w 0 r.w0 0#32
    let w1 := w 1 r.w1 (r.w0 &&& 0xFFFF#32)
    let w2 := w 2 r.w2 (r.w1 &&& 0xFFFF#32)
    let w3 := w 3 r.w3 (r.w2 &&& 0xFFFF#32)
    (decodeBlock o d eb).o = [low w0, high w0, low w1, high w1, low w2, high w2, low w3, high w3] ∧
    (decodeBlock o d eb).n = (unpackSize eb ^^^ unpackChecksum eb ^^^ 0x3D#8).toNat ∧
    ((decodeBlock o d eb).ok = true ↔ 0xF8#8 ^^^ (decodeBlock o d eb).o.foldr (· ^^^ ·) 0#8 = unpackChecksum eb))

/-- 42_simple_modulus.md R203, R208: the mix as its formula says, for both orders, which differ, and the unmix undoes it. The ascending
order is from general knowledge (GK8, log entry 7). -/
def Obligations.UnmixUndoesMix : Prop :=
  (∀ (k : KeySet) (r : Quad),
    let d := mixRing .desc k r
    d.w3 = r.w3 ∧ d.w2 = r.w2 ^^^ xorWord k 2 ^^^ lo16 r.w3 ∧ d.w1 = r.w1 ^^^ xorWord k 1 ^^^ lo16 d.w2 ∧
      d.w0 = r.w0 ^^^ xorWord k 0 ^^^ lo16 d.w1) ∧
  (∀ (k : KeySet) (r : Quad),
    let u := mixRing .asc k r
    u.w3 = r.w3 ∧ u.w2 = r.w2 ^^^ xorWord k 2 ^^^ lo16 r.w3 ∧ u.w1 = r.w1 ^^^ xorWord k 1 ^^^ lo16 r.w2 ∧
      u.w0 = r.w0 ^^^ xorWord k 0 ^^^ lo16 r.w1) ∧
  (∀ (o : MixOrder) (k : KeySet) (r : Quad), unmixRing o k (mixRing o k r) = r ∧ mixRing o k (unmixRing o k r) = r) ∧
  (∃ (k : KeySet) (b : List Byte), (encodeBlock .desc k b).eb ≠ (encodeBlock .asc k b).eb)

/-- 30_encoding.md R134: where each bit of the ring words, S and X stands in an encrypted block. The layout is what the spec
marks as from general knowledge (GK4, log entry 7). -/
def Obligations.PackPlacesEveryBit : Prop :=
  ∀ (r : Quad) (s x : Byte),
    (packBlock r s x).length = 11 ∧
    (∀ (i : Nat) (w : Word), [r.w0, r.w1, r.w2, r.w3][i]? = some w →
      (∀ j, j < 8 → bitAt (packBlock r s x) (18 * i + j) = w.getLsbD (7 - j)) ∧
      (∀ j, j < 8 → bitAt (packBlock r s x) (18 * i + 8 + j) = w.getLsbD (15 - j)) ∧
      bitAt (packBlock r s x) (18 * i + 16) = w.getLsbD 17 ∧ bitAt (packBlock r s x) (18 * i + 17) = w.getLsbD 16) ∧
    (∀ j, j < 8 → bitAt (packBlock r s x) (72 + j) = s.getLsbD (7 - j)) ∧
    (∀ j, j < 8 → bitAt (packBlock r s x) (80 + j) = x.getLsbD (7 - j))

/-- 42_simple_modulus.md R207: where each unpacked bit comes from, and its sentence marked [derived],
`Unpack(Pack(RING, S, X)) = (RING mod 2^18, S, X)`. The layout is from general knowledge (GK4, log entry 7). -/
def Obligations.UnpackInvertsPack : Prop :=
  (∀ eb : List Byte,
    let r := unpackRing eb
    (∀ (i : Nat) (w : Word), [r.w0, r.w1, r.w2, r.w3][i]? = some w →
      (∀ j, j < 8 → w.getLsbD (7 - j) = bitAt eb (18 * i + j)) ∧
      (∀ j, j < 8 → w.getLsbD (15 - j) = bitAt eb (18 * i + 8 + j)) ∧
      w.getLsbD 17 = bitAt eb (18 * i + 16) ∧ w.getLsbD 16 = bitAt eb (18 * i + 17) ∧
      ∀ b, 18 ≤ b → w.getLsbD b = false) ∧
    (∀ j, j < 8 → (unpackSize eb).getLsbD (7 - j) = bitAt eb (72 + j)) ∧
    (∀ j, j < 8 → (unpackChecksum eb).getLsbD (7 - j) = bitAt eb (80 + j))) ∧
  ∀ (r : Quad) (s x : Byte),
    unpackRing (packBlock r s x) =
      { w0 := BitVec.ofNat 32 (r.w0.toNat % 2 ^ 18), w1 := BitVec.ofNat 32 (r.w1.toNat % 2 ^ 18),
        w2 := BitVec.ofNat 32 (r.w2.toNat % 2 ^ 18), w3 := BitVec.ofNat 32 (r.w3.toNat % 2 ^ 18) } ∧
    unpackSize (packBlock r s x) = s ∧ unpackChecksum (packBlock r s x) = x

/-- 42_simple_modulus.md R212, its sentences marked [derived]: the round trip under the matching key condition, for both orders and every block; the
default pairs meet the condition. -/
def Obligations.MatchingKeysRoundTripEveryBlock : Prop :=
  matchingKeys ksS2cEnc ksS2cDec ∧ matchingKeys ksC2sEnc ksC2sDec ∧
  ∀ (o : MixOrder) (k d : KeySet) (b : List Byte), matchingKeys k d → 1 ≤ b.length → b.length ≤ 8 →
    decodeBlock o d (encodeBlock o k b).eb =
      { o := b ++ List.replicate (8 - b.length) 0#8, n := b.length, ok := true }

/-- 42_simple_modulus.md R213: SMENCB. -/
def Obligations.SmencbEncryptsOneBlock : Prop :=
  decode 0x00000010#32 = .command .smencb ∧
  ∀ s : State,
    let n := s.len.toNat
    (n = 0 ∨ 8 < n → exec .smencb s = .next (failWith s .blockSize)) ∧
    (1 ≤ n → n ≤ 8 → s.params.bufSize < s.src.toNat + n → exec .smencb s = .next (failWith s .bufRange)) ∧
    (1 ≤ n → n ≤ 8 → s.src.toNat + n ≤ s.params.bufSize → s.params.bufSize < s.dst.toNat + 11 →
      exec .smencb s = .next (failWith s .bufRange)) ∧
    (1 ≤ n → n ≤ 8 → s.src.toNat + n ≤ s.params.bufSize → s.dst.toNat + 11 ≤ s.params.bufSize → zeroModulus s.ekey →
      exec .smencb s = .next (failWith s .keyInvalid)) ∧
    (1 ≤ n → n ≤ 8 → s.src.toNat + n ≤ s.params.bufSize → s.dst.toNat + 11 ≤ s.params.bufSize → ¬ zeroModulus s.ekey →
      unwrittenIn s.buf s.src.toNat n → exec .smencb s = .fault .unwrittenRead) ∧
    (∀ b : List Byte, 1 ≤ n → n ≤ 8 → s.src.toNat + n ≤ s.params.bufSize → s.dst.toNat + 11 ≤ s.params.bufSize →
      ¬ zeroModulus s.ekey → b.length = n → holdsAt s.buf s.src.toNat b →
      let e := encodeBlock s.params.encMixOrder s.ekey b
      ∃ buf, exec .smencb s = .next { succeed s 11#32 (e.x.setWidth 32) with buf := buf } ∧
        storesOnly s.buf buf s.dst.toNat e.eb)

/-- 42_simple_modulus.md R214, R220: SMDECB, under both checksum policies. -/
def Obligations.SmdecbDecryptsOneBlock : Prop :=
  decode 0x00000011#32 = .command .smdecb ∧
  ∀ s : State,
    (s.params.bufSize < s.src.toNat + 11 → exec .smdecb s = .next (failWith s .bufRange)) ∧
    (s.src.toNat + 11 ≤ s.params.bufSize → s.params.bufSize < s.dst.toNat + 8 →
      exec .smdecb s = .next (failWith s .bufRange)) ∧
    (s.src.toNat + 11 ≤ s.params.bufSize → s.dst.toNat + 8 ≤ s.params.bufSize → zeroModulus s.dkey →
      exec .smdecb s = .next (failWith s .keyInvalid)) ∧
    (s.src.toNat + 11 ≤ s.params.bufSize → s.dst.toNat + 8 ≤ s.params.bufSize → ¬ zeroModulus s.dkey →
      unwrittenIn s.buf s.src.toNat 11 → exec .smdecb s = .fault .unwrittenRead) ∧
    (∀ eb : List Byte, s.src.toNat + 11 ≤ s.params.bufSize → s.dst.toNat + 8 ≤ s.params.bufSize → ¬ zeroModulus s.dkey →
      eb.length = 11 → holdsAt s.buf s.src.toNat eb →
      let p := decodeBlock s.params.encMixOrder s.dkey eb
      (p.ok = false → s.acceptBadCsum = false → exec .smdecb s = .next (failWith s .invalidBlockChecksum)) ∧
      (p.ok = true ∨ s.acceptBadCsum = true → p.n = 0 ∨ 8 < p.n →
        exec .smdecb s = .next { failWith s .blockSize with csumWarn := s.csumWarn || !p.ok }) ∧
      (blockAccepted s.acceptBadCsum p →
        ∃ buf, exec .smdecb s =
          .next { succeed s (BitVec.ofNat 32 p.n) (if p.ok then 1#32 else 0#32) with
                    buf := buf, csumWarn := s.csumWarn || !p.ok } ∧
          storesOnly s.buf buf s.dst.toNat p.o))

/-- 42_simple_modulus.md R218, and how R216 and R217 begin: SMENCF and SMDECF report what FramePrologue reports, and copy a
plain frame, with no key and no counter. -/
def Obligations.PlainFramesAreCopied : Prop :=
  (∀ (s : State) (i : Instr) (e : ErrCode) (w : OnError), i = .smencf ∨ i = .smdecf →
    s.framePrologue s.src.toNat true = .err e w → exec i s = .next (failWith s e)) ∧
  (∀ (s : State) (i : Instr) (f : Fault), i = .smencf ∨ i = .smdecf →
    s.framePrologue s.src.toNat true = .fault f → exec i s = .fault f) ∧
  ∀ (s : State) (p : Prologue) (i : Instr), i = .smencf ∨ i = .smdecf →
    s.framePrologue s.src.toNat true = .ok p → p.m = 0xC1#8 ∨ p.m = 0xC2#8 →
    (s.params.bufSize < s.dst.toNat + p.len → exec i s = .next (failWith s .bufRange)) ∧
    (s.dst.toNat + p.len ≤ s.params.bufSize → unwrittenIn s.buf s.src.toNat p.len → exec i s = .fault .unwrittenRead) ∧
    (∀ f : List Byte, s.dst.toNat + p.len ≤ s.params.bufSize → f.length = p.len → holdsAt s.buf s.src.toNat f →
      ∃ buf, exec i s = .next { succeed s (BitVec.ofNat 32 p.len) 0#32 with buf := buf } ∧
        storesOnly s.buf buf s.dst.toNat f)

/-- 42_simple_modulus.md R216, the C3/C4 case, 30_encoding.md R133: SMENCF. -/
def Obligations.SmencfEncryptsOneFrame : Prop :=
  decode 0x00000012#32 = .command .smencf ∧
  ∀ (s : State) (p : Prologue), s.framePrologue s.src.toNat true = .ok p → p.m = 0xC3#8 ∨ p.m = 0xC4#8 →
    let k := (p.len - p.h + 1 + 7) / 8
    let e := p.h + 11 * k
    let limit := if p.m = 0xC3#8 then 255 else 65535
    (zeroModulus s.ekey → exec .smencf s = .next (failWith s .keyInvalid)) ∧
    (¬ zeroModulus s.ekey → limit < e → exec .smencf s = .next (failWith s .lengthOverflow)) ∧
    (¬ zeroModulus s.ekey → e ≤ limit → s.params.bufSize < s.dst.toNat + e →
      exec .smencf s = .next (failWith s .bufRange)) ∧
    (¬ zeroModulus s.ekey → e ≤ limit → s.dst.toNat + e ≤ s.params.bufSize →
      unwrittenIn s.buf (s.src.toNat + p.h) (p.len - p.h) → exec .smencf s = .fault .unwrittenRead) ∧
    (∀ (payload : List Byte) (blocks : List (List Byte)), ¬ zeroModulus s.ekey → e ≤ limit →
      s.dst.toNat + e ≤ s.params.bufSize → payload.length = p.len - p.h → holdsAt s.buf (s.src.toNat + p.h) payload →
      blocks.flatten = s.ectr.count :: payload → blocks.length = k → (∀ b ∈ blocks.dropLast, b.length = 8) →
      (∀ b ∈ blocks, 1 ≤ b.length ∧ b.length ≤ 8) →
      ∃ buf, exec .smencf s =
          .next { succeed s (BitVec.ofNat 32 e) (s.ectr.count.setWidth 32) with
                    buf := buf, ectr := s.ectr.increase } ∧
        storesOnly s.buf buf s.dst.toNat
          ([p.m] ++ (if p.m = 0xC3#8 then [BitVec.ofNat 8 e] else [BitVec.ofNat 8 (e / 256), BitVec.ofNat 8 e]) ++
            blocks.flatMap fun b => (encodeBlock s.params.encMixOrder s.ekey b).eb))

/-- 42_simple_modulus.md R217, the checks before the blocks and the errors of a block: the lowest failing block reports, the
checksum before the size, and CSUM_WARN is set if a mismatch was tolerated before (R220). -/
def Obligations.SmdecfReportsTheFirstFailingBlock : Prop :=
  decode 0x00000013#32 = .command .smdecf ∧
  ∀ (s : State) (p : Prologue), s.framePrologue s.src.toNat true = .ok p → p.m = 0xC3#8 ∨ p.m = 0xC4#8 →
    (zeroModulus s.dkey → exec .smdecf s = .next (failWith s .keyInvalid)) ∧
    (¬ zeroModulus s.dkey → p.len = p.h ∨ (p.len - p.h) % 11 ≠ 0 →
      exec .smdecf s = .next (failWith s .invalidLength)) ∧
    (∀ (good : List (List Byte)) (k : Nat), ¬ zeroModulus s.dkey → p.len - p.h = 11 * k → good.length < k →
      (∀ b ∈ good, b.length = 11) → holdsAt s.buf (s.src.toNat + p.h) good.flatten →
      let ps := good.map (decodeBlock s.params.encMixOrder s.dkey)
      (∀ q ∈ ps, blockAccepted s.acceptBadCsum q) →
      (unwrittenIn s.buf (s.src.toNat + p.h + 11 * good.length) 11 → exec .smdecf s = .fault .unwrittenRead) ∧
      (∀ bad : List Byte, bad.length = 11 → holdsAt s.buf (s.src.toNat + p.h + 11 * good.length) bad →
        let q := decodeBlock s.params.encMixOrder s.dkey bad
        (q.ok = false → s.acceptBadCsum = false →
          exec .smdecf s =
            .next { failWith s .invalidBlockChecksum with csumWarn := s.csumWarn || anyMismatch ps }) ∧
        (q.ok = true ∨ s.acceptBadCsum = true → q.n = 0 ∨ 8 < q.n →
          exec .smdecf s =
            .next { failWith s .blockSize with csumWarn := s.csumWarn || (anyMismatch ps || !q.ok) })))

/-- 42_simple_modulus.md R217, R215: SMDECF once every block is accepted: the counter check, the range check, the output. -/
def Obligations.SmdecfDecryptsOneFrame : Prop :=
  ∀ (s : State) (p : Prologue) (ebs : List (List Byte)), s.framePrologue s.src.toNat true = .ok p →
    p.m = 0xC3#8 ∨ p.m = 0xC4#8 → ¬ zeroModulus s.dkey → ebs ≠ [] → p.len - p.h = 11 * ebs.length →
    (∀ b ∈ ebs, b.length = 11) → holdsAt s.buf (s.src.toNat + p.h) ebs.flatten →
    let ps := ebs.map (decodeBlock s.params.encMixOrder s.dkey)
    (∀ q ∈ ps, blockAccepted s.acceptBadCsum q) →
    let warn := s.csumWarn || anyMismatch ps
    ∀ (c0 : Byte) (payload : List Byte), contentOf ps = c0 :: payload →
      let lout := p.h + payload.length
      (c0 ≠ s.dctr.count → exec .smdecf s = .next { failWith s .counterMismatch with csumWarn := warn }) ∧
      (c0 = s.dctr.count → s.params.bufSize < s.dst.toNat + lout →
        exec .smdecf s = .next { failWith s .bufRange with csumWarn := warn }) ∧
      (c0 = s.dctr.count → s.dst.toNat + lout ≤ s.params.bufSize →
        ∃ buf, exec .smdecf s =
            .next { succeed s (BitVec.ofNat 32 lout) (c0.setWidth 32) with
                      buf := buf, dctr := s.dctr.increase, csumWarn := warn } ∧
          storesOnly s.buf buf s.dst.toNat
            ([p.m] ++
              (if p.m = 0xC3#8 then [BitVec.ofNat 8 lout] else [BitVec.ofNat 8 (lout / 256), BitVec.ofNat 8 lout]) ++
              payload) ∧
          lout < p.len)

/-- The source's property 1 (95_test_vectors.md section 1, 42_simple_modulus.md R212, R216, R217): a frame SMENCF encrypts on
one PCB, SMDECF decrypts on a peer whose keys match and whose counter agrees, whatever the two addresses and the rest of
the peer's state. -/
def Obligations.EncryptedFramesRoundTripBetweenPeers : Prop :=
  ∀ (s t u : State) (p : Prologue) (f : List Byte),
    s.framePrologue s.src.toNat true = .ok p → p.m = 0xC3#8 ∨ p.m = 0xC4#8 → f.length = p.len →
    holdsAt s.buf s.src.toNat f → exec .smencf s = .next t → t.err = false →
    matchingKeys s.ekey u.dkey → u.params.encMixOrder = s.params.encMixOrder → u.dctr.count = s.ectr.count →
    (∀ j, j < t.result0.toNat → u.buf.read (u.src.toNat + j) = t.buf.read (s.dst.toNat + j)) →
    u.src.toNat + t.result0.toNat ≤ u.params.bufSize → u.dst.toNat + p.len ≤ u.params.bufSize →
    ∃ buf, exec .smdecf u =
        .next { succeed u (BitVec.ofNat 32 p.len) (u.dctr.count.setWidth 32) with
                  buf := buf, dctr := u.dctr.increase } ∧
      storesOnly u.buf buf u.dst.toNat f

/-! ## The XOR-32 pass -/

/-- 43_xor32.md R250, R251: XORENC, by the chain each encoded byte satisfies, and the key byte of index i
(10_state.md R41). -/
def Obligations.XorencChainsFromTheFront : Prop :=
  decode 0x00000018#32 = .command .xorenc ∧
  (∀ (key : Vector Word 8) (j : Fin 8) (b n : Nat), b < 4 →
    x32 key (4 * j.val + b + 32 * n) = key[j.val].extractLsb' (8 * b) 8) ∧
  (∀ (s : State) (e : ErrCode) (w : OnError), s.framePrologue s.src.toNat true = .err e w →
    exec .xorenc s = .next (failWith s e)) ∧
  (∀ (s : State) (f : Fault), s.framePrologue s.src.toNat true = .fault f → exec .xorenc s = .fault f) ∧
  ∀ (s : State) (p : Prologue), s.framePrologue s.src.toNat true = .ok p →
    (unwrittenIn s.buf s.src.toNat p.len → exec .xorenc s = .fault .unwrittenRead) ∧
    (∀ f : List Byte, f.length = p.len → holdsAt s.buf s.src.toNat f →
      ∃ (e : List Byte) (buf : Memory),
        exec .xorenc s = .next { succeed s (BitVec.ofNat 32 p.len) (BitVec.ofNat 32 p.h) with buf := buf } ∧
        storesOnly s.buf buf s.src.toNat e ∧ e.length = p.len ∧
        (∀ i, i ≤ p.h → e[i]? = f[i]?) ∧
        (∀ i fi ei' , p.h < i → f[i]? = some fi → e[i - 1]? = some ei' → e[i]? = some (fi ^^^ ei' ^^^ x32 s.xkeyw i)))

/-- 43_xor32.md R250, R252: XORDEC, by the chain each decoded byte satisfies: its neighbour is still encoded. -/
def Obligations.XordecChainsFromTheBack : Prop :=
  decode 0x00000019#32 = .command .xordec ∧
  (∀ (s : State) (e : ErrCode) (w : OnError), s.framePrologue s.src.toNat true = .err e w →
    exec .xordec s = .next (failWith s e)) ∧
  (∀ (s : State) (f : Fault), s.framePrologue s.src.toNat true = .fault f → exec .xordec s = .fault f) ∧
  ∀ (s : State) (p : Prologue), s.framePrologue s.src.toNat true = .ok p →
    (unwrittenIn s.buf s.src.toNat p.len → exec .xordec s = .fault .unwrittenRead) ∧
    (∀ f : List Byte, f.length = p.len → holdsAt s.buf s.src.toNat f →
      ∃ (e : List Byte) (buf : Memory),
        exec .xordec s = .next { succeed s (BitVec.ofNat 32 p.len) (BitVec.ofNat 32 p.h) with buf := buf } ∧
        storesOnly s.buf buf s.src.toNat e ∧ e.length = p.len ∧
        (∀ i, i ≤ p.h → e[i]? = f[i]?) ∧
        (∀ i fi fi' , p.h < i → f[i]? = some fi → f[i - 1]? = some fi' → e[i]? = some (fi ^^^ fi' ^^^ x32 s.xkeyw i)))

/-- 43_xor32.md R253, marked [derived]: on the machine, each pass undoes the other, byte for byte of BUF, and keeps what FramePrologue says;
neither is its own inverse. -/
def Obligations.XorPassesUndoEachOther : Prop :=
  (∀ s t : State, exec .xorenc s = .next t → t.err = false →
    t.framePrologue t.src.toNat true = s.framePrologue s.src.toNat true ∧
    ∃ u, exec .xordec t = .next u ∧ u.err = false ∧ ∀ a, u.buf.read a = s.buf.read a) ∧
  (∀ s t : State, exec .xordec s = .next t → t.err = false →
    t.framePrologue t.src.toNat true = s.framePrologue s.src.toNat true ∧
    ∃ u, exec .xorenc t = .next u ∧ u.err = false ∧ ∀ a, u.buf.read a = s.buf.read a) ∧
  (∃ (s t u : State) (a : Nat), exec .xorenc s = .next t ∧ exec .xorenc t = .next u ∧ u.err = false ∧
    u.buf.read a ≠ s.buf.read a) ∧
  (∃ (s t u : State) (a : Nat), exec .xordec s = .next t ∧ exec .xordec t = .next u ∧ u.err = false ∧
    u.buf.read a ≠ s.buf.read a)

/-! ## Counters -/

/-- 40_counter.md R160, R162: CTRINC, on integers; the other counter and both windows are untouched. -/
def Obligations.CtrincStepsAndWraps : Prop :=
  decode 0x00000020#32 = .command (.ctrinc .ectr) ∧ decode 0x00000120#32 = .command (.ctrinc .dctr) ∧
  ∀ s : State,
    (∃ c : Byte,
      exec (.ctrinc .ectr) s =
        .next { succeed s (c.setWidth 32) (s.ectr.count.setWidth 32) with ectr := { s.ectr with count := c } } ∧
      (s.ectr.count.toNat + 1 ≤ s.ectr.max.toNat → c.toNat = s.ectr.count.toNat + 1) ∧
      (s.ectr.max.toNat < s.ectr.count.toNat + 1 → c = s.ectr.min)) ∧
    (∃ c : Byte,
      exec (.ctrinc .dctr) s =
        .next { succeed s (c.setWidth 32) (s.dctr.count.setWidth 32) with dctr := { s.dctr with count := c } } ∧
      (s.dctr.count.toNat + 1 ≤ s.dctr.max.toNat → c.toNat = s.dctr.count.toNat + 1) ∧
      (s.dctr.max.toNat < s.dctr.count.toNat + 1 → c = s.dctr.min))

/-- 40_counter.md R161, R163: CTRRST. -/
def Obligations.CtrrstReturnsToMin : Prop :=
  decode 0x00000021#32 = .command (.ctrrst .ectr) ∧ decode 0x00000121#32 = .command (.ctrrst .dctr) ∧
  ∀ s : State,
    exec (.ctrrst .ectr) s =
      .next { succeed s (s.ectr.min.setWidth 32) (s.ectr.count.setWidth 32) with
                ectr := { s.ectr with count := s.ectr.min } } ∧
    exec (.ctrrst .dctr) s =
      .next { succeed s (s.dctr.min.setWidth 32) (s.dctr.count.setWidth 32) with
                dctr := { s.dctr with count := s.dctr.min } }

/-! ## The stream reader -/

/-- 45_stream_reader.md R301, 10_state.md R35: FRAME_AVAIL, and that it shows exactly whether STRNEXT would deliver a frame
now, its destination being in range. -/
def Obligations.FrameAvailShowsWhetherStrnextDelivers : Prop :=
  (∀ s : State, s.frameAvail = true ↔
    s.sstate ≠ .terminated ∧ ∃ b0 b1 b2 rest, s.sb = b0 :: b1 :: b2 :: rest ∧
      headerSize b0 ≤ declaredLength b0 b1 b2 ∧ declaredLength b0 b1 b2 ≠ 0 ∧
      declaredLength b0 b1 b2 ≤ s.sb.length) ∧
  (∀ s : State, s.statusWord.getLsbD 16 = s.frameAvail) ∧
  (∀ s : State, s.dst.toNat + 65535 ≤ s.params.bufSize →
    (s.frameAvail = true ↔ ∃ t, exec .strnext s = .next t ∧ t.err = false ∧ t.result0 ≠ 0#32))

/-- 45_stream_reader.md R302: STRFEED. -/
def Obligations.StrfeedAppendsBytes : Prop :=
  decode 0x00000030#32 = .command .strfeed ∧
  ∀ s : State,
    (s.sstate ≠ .opened → exec .strfeed s = .next (failWith s .streamState)) ∧
    (s.sstate = .opened → s.params.bufSize < s.src.toNat + s.len.toNat →
      exec .strfeed s = .next (failWith s .bufRange)) ∧
    (s.sstate = .opened → s.src.toNat + s.len.toNat ≤ s.params.bufSize →
      s.params.streamCap < s.sb.length + s.len.toNat → exec .strfeed s = .next (failWith s .streamOverflow)) ∧
    (s.sstate = .opened → s.src.toNat + s.len.toNat ≤ s.params.bufSize →
      s.sb.length + s.len.toNat ≤ s.params.streamCap → unwrittenIn s.buf s.src.toNat s.len.toNat →
      exec .strfeed s = .fault .unwrittenRead) ∧
    (∀ bs : List Byte, s.sstate = .opened → s.src.toNat + s.len.toNat ≤ s.params.bufSize →
      s.sb.length + s.len.toNat ≤ s.params.streamCap → bs.length = s.len.toNat → holdsAt s.buf s.src.toNat bs →
      exec .strfeed s =
        .next { succeed s (BitVec.ofNat 32 (s.sb.length + s.len.toNat)) s.len with sb := s.sb ++ bs })

/-- 45_stream_reader.md R303: STRNEXT. -/
def Obligations.StrnextDeliversOneFrame : Prop :=
  decode 0x00000031#32 = .command .strnext ∧
  ∀ s : State,
    (s.sstate = .terminated → exec .strnext s = .next (failWith s .streamState)) ∧
    (∀ b0 b1 b2 rest, s.sstate ≠ .terminated → s.sb = b0 :: b1 :: b2 :: rest →
      (declaredLength b0 b1 b2 = 0 →
        exec .strnext s = .next { failWith s .invalidHeaderMarker with sstate := .terminated }) ∧
      (declaredLength b0 b1 b2 ≠ 0 → declaredLength b0 b1 b2 < headerSize b0 →
        exec .strnext s = .next { failWith s .invalidLength with sstate := .terminated }) ∧
      (declaredLength b0 b1 b2 ≠ 0 → headerSize b0 ≤ declaredLength b0 b1 b2 →
        s.params.bufSize < s.dst.toNat + declaredLength b0 b1 b2 → declaredLength b0 b1 b2 ≤ s.sb.length →
        exec .strnext s = .next (failWith s .bufRange)) ∧
      (∀ frame tail, declaredLength b0 b1 b2 ≠ 0 → headerSize b0 ≤ declaredLength b0 b1 b2 →
        s.dst.toNat + declaredLength b0 b1 b2 ≤ s.params.bufSize → s.sb = frame ++ tail →
        frame.length = declaredLength b0 b1 b2 →
        ∃ buf, exec .strnext s =
            .next { succeed s (BitVec.ofNat 32 frame.length) (BitVec.ofNat 32 tail.length) with
                      buf := buf, sb := tail } ∧
          storesOnly s.buf buf s.dst.toNat frame)) ∧
    ((s.sb.length < 3 ∨ ∃ b0 b1 b2 rest, s.sb = b0 :: b1 :: b2 :: rest ∧ headerSize b0 ≤ declaredLength b0 b1 b2 ∧
        s.sb.length < declaredLength b0 b1 b2) →
      (s.sstate = .opened → exec .strnext s = .next (succeed s 0#32 (BitVec.ofNat 32 s.sb.length))) ∧
      (s.sstate = .closed → exec .strnext s = .next { succeed s 0#32 0#32 with sb := [] }))

/-- 45_stream_reader.md R304, R305: STRCLOSE and STRRESET. -/
def Obligations.StrcloseAndStrreset : Prop :=
  decode 0x00000032#32 = .command .strclose ∧ decode 0x00000033#32 = .command .strreset ∧
  ∀ s : State,
    (s.sstate = .opened →
      exec .strclose s = .next { succeed s (BitVec.ofNat 32 s.sb.length) 0#32 with sstate := .closed }) ∧
    (s.sstate ≠ .opened → exec .strclose s = .next (succeed s (BitVec.ofNat 32 s.sb.length) 0#32)) ∧
    exec .strreset s = .next { succeed s (BitVec.ofNat 32 s.sb.length) 0#32 with sb := [], sstate := .opened }

/-- 45_stream_reader.md R306: chunking invariance: however a byte stream is split, the frames delivered are those of one
feed of the whole, a framing error comes in both or in neither, and without one the same bytes are left. -/
def Obligations.ChunkingDoesNotChangeTheFrames : Prop :=
  ∀ (s : State) (cs : List (List Byte)), s.sstate = .opened → s.sb = [] →
    cs.flatten.length < 2 ^ 32 → cs.flatten.length ≤ s.params.streamCap →
    s.src.toNat + cs.flatten.length ≤ s.params.bufSize → s.dst.toNat + 65535 ≤ s.params.bufSize →
    (feedChunks cs s).1 = (feedChunks [cs.flatten] s).1 ∧
    (feedChunks cs s).2.sstate = (feedChunks [cs.flatten] s).2.sstate ∧
    ((feedChunks cs s).2.sstate = .opened → (feedChunks cs s).2.sb = (feedChunks [cs.flatten] s).2.sb)
end

