-- ==== Sys2Proof/Laws/Memory.lean ====
section
/-! SUPPORT. Sys2Proof/Laws/Memory.lean: the laws of the frame buffer: read after write, canonical form, byte strings. -/

namespace Sys2Proof.Machine

/-! ## One byte -/

/-- A read after a write to the same address gives the value written. -/
@[simp] theorem Memory.read_write_same (m : Memory) (a : Nat) (v : Byte) : Memory.read (Memory.write m a v) a = some v := by
  induction m with
  | nil => simp [Memory.write, Memory.read]
  | cons c m ih =>
    obtain ⟨k, b⟩ := c
    simp only [Memory.write]
    split
    · simp [Memory.read]
    · split
      · simp [Memory.read]
      · rename_i h1 h2
        simp [Memory.read, ih, Ne.symm h2]

/-- A write leaves every other address alone. -/
theorem Memory.read_write_ne (m : Memory) {a x : Nat} (v : Byte) (h : x ≠ a) :
    Memory.read (Memory.write m a v) x = Memory.read m x := by
  induction m with
  | nil => simp [Memory.write, Memory.read, h.symm]
  | cons c m ih =>
    obtain ⟨k, b⟩ := c
    simp only [Memory.write]
    split
    · simp [Memory.read, h.symm]
    · split
      · rename_i h1 h2
        subst h2
        simp [Memory.read, h.symm]
      · simp [Memory.read, ih]

/-- The write of one byte, read anywhere. -/
theorem Memory.read_write (m : Memory) (a x : Nat) (v : Byte) :
    Memory.read (Memory.write m a v) x = if x = a then some v else Memory.read m x := by
  split
  · next h => subst h; simp
  · next h => exact Memory.read_write_ne m v h

/-! ## Canonical form -/

theorem Memory.risesFrom_mono {m : Memory} {lo lo' : Nat} (h : lo' ≤ lo) (hm : Memory.risesFrom lo m = true) :
    Memory.risesFrom lo' m = true := by
  cases m with
  | nil => rfl
  | cons c m =>
    simp only [Memory.risesFrom, Bool.and_eq_true, decide_eq_true_eq] at *
    exact ⟨by omega, hm.2⟩

theorem Memory.risesFrom_write {m : Memory} {lo a : Nat} (v : Byte) (h : lo ≤ a) (hm : Memory.risesFrom lo m = true) :
    Memory.risesFrom lo (Memory.write m a v) = true := by
  induction m generalizing lo with
  | nil => simp [Memory.write, Memory.risesFrom, h]
  | cons c m ih =>
    obtain ⟨k, b⟩ := c
    simp only [Memory.risesFrom, Bool.and_eq_true, decide_eq_true_eq] at hm
    simp only [Memory.write]
    split
    · simp only [Memory.risesFrom, Bool.and_eq_true, decide_eq_true_eq]
      exact ⟨h, by omega, hm.2⟩
    · split
      · rename_i h1 h2
        subst h2
        simp only [Memory.risesFrom, Bool.and_eq_true, decide_eq_true_eq]
        exact hm
      · simp only [Memory.risesFrom, Bool.and_eq_true, decide_eq_true_eq]
        exact ⟨hm.1, ih (by omega) hm.2⟩

/-- Writing a byte keeps the canonical form. -/
theorem Memory.wf_write {m : Memory} (a : Nat) (v : Byte) (hm : Memory.wf m = true) :
    Memory.wf (Memory.write m a v) = true :=
  Memory.risesFrom_write v (Nat.zero_le a) hm

/-- Writing bytes keeps the canonical form. -/
theorem Memory.wf_writeBytes {m : Memory} (a : Nat) (bs : List Byte) (hm : Memory.wf m = true) :
    Memory.wf (Memory.writeBytes m a bs) = true := by
  induction bs generalizing m a with
  | nil => exact hm
  | cons b bs ih => exact ih (a + 1) (Memory.wf_write a b hm)

/-- The address of every entry after a write was there before, or is the address written. -/
theorem Memory.mem_write {m : Memory} {a : Nat} {v : Byte} {c : Host.Cell} (h : c ∈ Memory.write m a v) :
    c ∈ m ∨ c.1 = a := by
  induction m with
  | nil => simp [Memory.write] at h; right; simp [h]
  | cons d m ih =>
    obtain ⟨k, b⟩ := d
    simp only [Memory.write] at h
    split at h
    · simp only [List.mem_cons] at h ⊢
      rcases h with h | h | h
      · right; simp [h]
      · left; left; exact h
      · left; right; exact h
    · split at h
      · simp only [List.mem_cons] at h ⊢
        rcases h with h | h
        · right; simp [h]
        · left; right; exact h
      · simp only [List.mem_cons] at h ⊢
        rcases h with h | h
        · left; left; exact h
        · rcases ih h with h | h
          · left; right; exact h
          · right; exact h

/-- Writing bytes inside a bound keeps every entry inside the bound. -/
theorem Memory.inRange_writeBytes {m : Memory} {a n : Nat} {bs : List Byte} (hn : a + bs.length ≤ n)
    (hm : ∀ c ∈ m, c.1 < n) : ∀ c ∈ Memory.writeBytes m a bs, c.1 < n := by
  induction bs generalizing m a with
  | nil => exact hm
  | cons b bs ih =>
    simp only [List.length_cons] at hn
    refine ih (m := Memory.write m a b) (by omega) ?_
    intro c hc
    rcases Memory.mem_write hc with h | h
    · exact hm c h
    · omega

/-! ## Byte strings -/

@[simp] theorem Memory.writeBytes_nil (m : Memory) (a : Nat) : Memory.writeBytes m a [] = m := rfl

theorem Memory.writeBytes_cons (m : Memory) (a : Nat) (b : Byte) (bs : List Byte) :
    Memory.writeBytes m a (b :: bs) = Memory.writeBytes (Memory.write m a b) (a + 1) bs := rfl

/-- Writing one string after another. -/
theorem Memory.writeBytes_append (m : Memory) (a : Nat) (bs cs : List Byte) :
    Memory.writeBytes m a (bs ++ cs) = Memory.writeBytes (Memory.writeBytes m a bs) (a + bs.length) cs := by
  induction bs generalizing m a with
  | nil => rfl
  | cons b bs ih =>
    simp only [List.cons_append, Memory.writeBytes_cons, ih, List.length_cons]
    congr 1
    omega

/-- Bytes below the string written are as they were. -/
theorem Memory.read_writeBytes_below (m : Memory) {a x : Nat} (bs : List Byte) (h : x < a) :
    Memory.read (Memory.writeBytes m a bs) x = Memory.read m x := by
  induction bs generalizing m a with
  | nil => rfl
  | cons b bs ih =>
    rw [Memory.writeBytes_cons, ih _ (by omega), Memory.read_write_ne _ _ (by omega)]

/-- Bytes above the string written are as they were. -/
theorem Memory.read_writeBytes_above (m : Memory) {a x : Nat} (bs : List Byte) (h : a + bs.length ≤ x) :
    Memory.read (Memory.writeBytes m a bs) x = Memory.read m x := by
  induction bs generalizing m a with
  | nil => rfl
  | cons b bs ih =>
    simp only [List.length_cons] at h
    rw [Memory.writeBytes_cons, ih _ (by omega), Memory.read_write_ne _ _ (by omega)]

/-- The bytes written are there. -/
theorem Memory.read_writeBytes_in (m : Memory) {a j : Nat} {bs : List Byte} {b : Byte} (h : bs[j]? = some b) :
    Memory.read (Memory.writeBytes m a bs) (a + j) = some b := by
  induction bs generalizing m a j with
  | nil => simp at h
  | cons c bs ih =>
    cases j with
    | zero =>
      simp only [List.getElem?_cons_zero, Option.some.injEq] at h
      subst h
      rw [Memory.writeBytes_cons, Memory.read_writeBytes_below _ _ (by omega)]
      simp
    | succ j =>
      simp only [List.getElem?_cons_succ] at h
      rw [Memory.writeBytes_cons, show a + (j + 1) = a + 1 + j by omega]
      exact ih _ h

/-- What `MemWrite` does, said once: it stores its bytes and nothing else. -/
theorem Memory.storesOnly_writeBytes (m : Memory) (a : Nat) (bs : List Byte) :
    storesOnly m (Memory.writeBytes m a bs) a bs := by
  refine ⟨fun j b h => Memory.read_writeBytes_in m h, fun x hx => ?_⟩
  rcases hx with hx | hx
  · exact Memory.read_writeBytes_below m bs hx
  · exact Memory.read_writeBytes_above m bs hx

/-- What `MemRead` gives, said once: the n bytes that stand there. -/
theorem Memory.readBytes_eq_some_iff (m : Memory) (a n : Nat) (bs : List Byte) :
    Memory.readBytes m a n = some bs ↔ bs.length = n ∧ holdsAt m a bs := by
  induction n generalizing a bs with
  | zero =>
    constructor
    · intro h
      simp only [Memory.readBytes, Option.some.injEq] at h
      subst h
      exact ⟨rfl, fun j b hj => by simp at hj⟩
    · rintro ⟨h, -⟩
      rw [List.length_eq_zero_iff.mp h]
      rfl
  | succ n ih =>
    constructor
    · intro h
      simp only [Memory.readBytes] at h
      split at h
      · cases h
      · next b hb =>
        rw [Option.map_eq_some_iff] at h
        obtain ⟨cs, hcs, rfl⟩ := h
        obtain ⟨hl, hh⟩ := (ih _ _).mp hcs
        refine ⟨by simp [hl], fun j c hj => ?_⟩
        cases j with
        | zero => simp only [List.getElem?_cons_zero, Option.some.injEq] at hj; subst hj; exact hb
        | succ j =>
          simp only [List.getElem?_cons_succ] at hj
          rw [show a + (j + 1) = a + 1 + j by omega]
          exact hh j c hj
    · rintro ⟨hl, hh⟩
      cases bs with
      | nil => simp at hl
      | cons b cs =>
        have h0 : Memory.read m a = some b := hh 0 b (by simp)
        have h1 : Memory.readBytes m (a + 1) n = some cs := by
          refine (ih _ _).mpr ⟨by simpa using hl, fun j c hj => ?_⟩
          rw [show a + 1 + j = a + (j + 1) by omega]
          exact hh (j + 1) c (by simpa using hj)
        simp [Memory.readBytes, h0, h1]

/-- `MemRead` meets an unwritten byte exactly when one is there. -/
theorem Memory.readBytes_eq_none_iff (m : Memory) (a n : Nat) :
    Memory.readBytes m a n = none ↔ unwrittenIn m a n := by
  induction n generalizing a with
  | zero => simp [Memory.readBytes, unwrittenIn]
  | succ n ih =>
    simp only [Memory.readBytes]
    split
    · next h => simp only [true_iff]; exact ⟨0, by omega, h⟩
    · next b h =>
      rw [Option.map_eq_none_iff, ih]
      constructor
      · rintro ⟨j, hj, hr⟩
        exact ⟨j + 1, by omega, by rw [show a + (j + 1) = a + 1 + j by omega]; exact hr⟩
      · rintro ⟨j, hj, hr⟩
        cases j with
        | zero => rw [Nat.add_zero, h] at hr; cases hr
        | succ j => exact ⟨j, by omega, by rw [show a + 1 + j = a + (j + 1) by omega]; exact hr⟩

/-- Reading back what was written. -/
theorem Memory.readBytes_writeBytes (m : Memory) (a : Nat) (bs : List Byte) :
    Memory.readBytes (Memory.writeBytes m a bs) a bs.length = some bs :=
  (Memory.readBytes_eq_some_iff _ _ _ _).mpr ⟨rfl, (Memory.storesOnly_writeBytes m a bs).1⟩

/-- Reading a region depends on its bytes alone. -/
theorem Memory.readBytes_congr {m m' : Memory} {a n : Nat} (h : ∀ j, j < n → Memory.read m' (a + j) = Memory.read m (a + j)) :
    Memory.readBytes m' a n = Memory.readBytes m a n := by
  induction n generalizing a with
  | zero => rfl
  | succ n ih =>
    have h0 := h 0 (by omega)
    rw [Nat.add_zero] at h0
    simp only [Memory.readBytes, h0]
    rw [ih (a := a + 1) (fun j hj => by rw [show a + 1 + j = a + (j + 1) by omega]; exact h (j + 1) (by omega))]

/-- The state after reset holds no byte, in canonical form. -/
theorem State.reset_buf_wf : Memory.wf State.reset.buf = true := rfl

end Sys2Proof.Machine
end

