-- ==== Sys2Proof/Laws/State.lean ====
section
/-! SUPPORT. Sys2Proof/Laws/State.lean: for each named update of State, what every field of the result is, so that no proof
unfolds a record update. -/

namespace Sys2Proof.Machine

/-! ## withResults -/

@[simp] theorem State.withResults_params (s : State) (a b : Nat) : (s.withResults a b).params = s.params := rfl
@[simp] theorem State.withResults_acceptBadCsum (s : State) (a b : Nat) : (s.withResults a b).acceptBadCsum = s.acceptBadCsum := rfl
@[simp] theorem State.withResults_busy (s : State) (a b : Nat) : (s.withResults a b).busy = s.busy := rfl
@[simp] theorem State.withResults_done (s : State) (a b : Nat) : (s.withResults a b).done = s.done := rfl
@[simp] theorem State.withResults_err (s : State) (a b : Nat) : (s.withResults a b).err = s.err := rfl
@[simp] theorem State.withResults_errAcc (s : State) (a b : Nat) : (s.withResults a b).errAcc = s.errAcc := rfl
@[simp] theorem State.withResults_csumWarn (s : State) (a b : Nat) : (s.withResults a b).csumWarn = s.csumWarn := rfl
@[simp] theorem State.withResults_overrun (s : State) (a b : Nat) : (s.withResults a b).overrun = s.overrun := rfl
@[simp] theorem State.withResults_errCode (s : State) (a b : Nat) : (s.withResults a b).errCode = s.errCode := rfl
@[simp] theorem State.withResults_src (s : State) (a b : Nat) : (s.withResults a b).src = s.src := rfl
@[simp] theorem State.withResults_dst (s : State) (a b : Nat) : (s.withResults a b).dst = s.dst := rfl
@[simp] theorem State.withResults_len (s : State) (a b : Nat) : (s.withResults a b).len = s.len := rfl
@[simp] theorem State.withResults_arg0 (s : State) (a b : Nat) : (s.withResults a b).arg0 = s.arg0 := rfl
@[simp] theorem State.withResults_arg1 (s : State) (a b : Nat) : (s.withResults a b).arg1 = s.arg1 := rfl
@[simp] theorem State.withResults_result0 (s : State) (a b : Nat) : (s.withResults a b).result0 = BitVec.ofNat 32 a := rfl
@[simp] theorem State.withResults_result1 (s : State) (a b : Nat) : (s.withResults a b).result1 = BitVec.ofNat 32 b := rfl
@[simp] theorem State.withResults_ekey (s : State) (a b : Nat) : (s.withResults a b).ekey = s.ekey := rfl
@[simp] theorem State.withResults_dkey (s : State) (a b : Nat) : (s.withResults a b).dkey = s.dkey := rfl
@[simp] theorem State.withResults_xkeyw (s : State) (a b : Nat) : (s.withResults a b).xkeyw = s.xkeyw := rfl
@[simp] theorem State.withResults_ectr (s : State) (a b : Nat) : (s.withResults a b).ectr = s.ectr := rfl
@[simp] theorem State.withResults_dctr (s : State) (a b : Nat) : (s.withResults a b).dctr = s.dctr := rfl
@[simp] theorem State.withResults_buf (s : State) (a b : Nat) : (s.withResults a b).buf = s.buf := rfl
@[simp] theorem State.withResults_sb (s : State) (a b : Nat) : (s.withResults a b).sb = s.sb := rfl
@[simp] theorem State.withResults_sstate (s : State) (a b : Nat) : (s.withResults a b).sstate = s.sstate := rfl
@[simp] theorem State.withResults_pending (s : State) (a b : Nat) : (s.withResults a b).pending = s.pending := rfl
@[simp] theorem State.withResults_delay (s : State) (a b : Nat) : (s.withResults a b).delay = s.delay := rfl
@[simp] theorem State.withResults_draws (s : State) (a b : Nat) : (s.withResults a b).draws = s.draws := rfl
@[simp] theorem State.withResults_hostQueue (s : State) (a b : Nat) : (s.withResults a b).hostQueue = s.hostQueue := rfl
@[simp] theorem State.withResults_hostReads (s : State) (a b : Nat) : (s.withResults a b).hostReads = s.hostReads := rfl

/-! ## memWrite -/

@[simp] theorem State.memWrite_params (s : State) (a : Nat) (bs : List Byte) : (s.memWrite a bs).params = s.params := rfl
@[simp] theorem State.memWrite_acceptBadCsum (s : State) (a : Nat) (bs : List Byte) : (s.memWrite a bs).acceptBadCsum = s.acceptBadCsum := rfl
@[simp] theorem State.memWrite_busy (s : State) (a : Nat) (bs : List Byte) : (s.memWrite a bs).busy = s.busy := rfl
@[simp] theorem State.memWrite_done (s : State) (a : Nat) (bs : List Byte) : (s.memWrite a bs).done = s.done := rfl
@[simp] theorem State.memWrite_err (s : State) (a : Nat) (bs : List Byte) : (s.memWrite a bs).err = s.err := rfl
@[simp] theorem State.memWrite_errAcc (s : State) (a : Nat) (bs : List Byte) : (s.memWrite a bs).errAcc = s.errAcc := rfl
@[simp] theorem State.memWrite_csumWarn (s : State) (a : Nat) (bs : List Byte) : (s.memWrite a bs).csumWarn = s.csumWarn := rfl
@[simp] theorem State.memWrite_overrun (s : State) (a : Nat) (bs : List Byte) : (s.memWrite a bs).overrun = s.overrun := rfl
@[simp] theorem State.memWrite_errCode (s : State) (a : Nat) (bs : List Byte) : (s.memWrite a bs).errCode = s.errCode := rfl
@[simp] theorem State.memWrite_src (s : State) (a : Nat) (bs : List Byte) : (s.memWrite a bs).src = s.src := rfl
@[simp] theorem State.memWrite_dst (s : State) (a : Nat) (bs : List Byte) : (s.memWrite a bs).dst = s.dst := rfl
@[simp] theorem State.memWrite_len (s : State) (a : Nat) (bs : List Byte) : (s.memWrite a bs).len = s.len := rfl
@[simp] theorem State.memWrite_arg0 (s : State) (a : Nat) (bs : List Byte) : (s.memWrite a bs).arg0 = s.arg0 := rfl
@[simp] theorem State.memWrite_arg1 (s : State) (a : Nat) (bs : List Byte) : (s.memWrite a bs).arg1 = s.arg1 := rfl
@[simp] theorem State.memWrite_result0 (s : State) (a : Nat) (bs : List Byte) : (s.memWrite a bs).result0 = s.result0 := rfl
@[simp] theorem State.memWrite_result1 (s : State) (a : Nat) (bs : List Byte) : (s.memWrite a bs).result1 = s.result1 := rfl
@[simp] theorem State.memWrite_ekey (s : State) (a : Nat) (bs : List Byte) : (s.memWrite a bs).ekey = s.ekey := rfl
@[simp] theorem State.memWrite_dkey (s : State) (a : Nat) (bs : List Byte) : (s.memWrite a bs).dkey = s.dkey := rfl
@[simp] theorem State.memWrite_xkeyw (s : State) (a : Nat) (bs : List Byte) : (s.memWrite a bs).xkeyw = s.xkeyw := rfl
@[simp] theorem State.memWrite_ectr (s : State) (a : Nat) (bs : List Byte) : (s.memWrite a bs).ectr = s.ectr := rfl
@[simp] theorem State.memWrite_dctr (s : State) (a : Nat) (bs : List Byte) : (s.memWrite a bs).dctr = s.dctr := rfl
@[simp] theorem State.memWrite_buf (s : State) (a : Nat) (bs : List Byte) : (s.memWrite a bs).buf = s.buf.writeBytes a bs := rfl
@[simp] theorem State.memWrite_sb (s : State) (a : Nat) (bs : List Byte) : (s.memWrite a bs).sb = s.sb := rfl
@[simp] theorem State.memWrite_sstate (s : State) (a : Nat) (bs : List Byte) : (s.memWrite a bs).sstate = s.sstate := rfl
@[simp] theorem State.memWrite_pending (s : State) (a : Nat) (bs : List Byte) : (s.memWrite a bs).pending = s.pending := rfl
@[simp] theorem State.memWrite_delay (s : State) (a : Nat) (bs : List Byte) : (s.memWrite a bs).delay = s.delay := rfl
@[simp] theorem State.memWrite_draws (s : State) (a : Nat) (bs : List Byte) : (s.memWrite a bs).draws = s.draws := rfl
@[simp] theorem State.memWrite_hostQueue (s : State) (a : Nat) (bs : List Byte) : (s.memWrite a bs).hostQueue = s.hostQueue := rfl
@[simp] theorem State.memWrite_hostReads (s : State) (a : Nat) (bs : List Byte) : (s.memWrite a bs).hostReads = s.hostReads := rfl

/-! ## completeOk -/

@[simp] theorem State.completeOk_params (s : State) : (s.completeOk).params = s.params := rfl
@[simp] theorem State.completeOk_acceptBadCsum (s : State) : (s.completeOk).acceptBadCsum = s.acceptBadCsum := rfl
@[simp] theorem State.completeOk_busy (s : State) : (s.completeOk).busy = false := rfl
@[simp] theorem State.completeOk_done (s : State) : (s.completeOk).done = true := rfl
@[simp] theorem State.completeOk_err (s : State) : (s.completeOk).err = false := rfl
@[simp] theorem State.completeOk_errAcc (s : State) : (s.completeOk).errAcc = s.errAcc := rfl
@[simp] theorem State.completeOk_csumWarn (s : State) : (s.completeOk).csumWarn = s.csumWarn := rfl
@[simp] theorem State.completeOk_overrun (s : State) : (s.completeOk).overrun = s.overrun := rfl
@[simp] theorem State.completeOk_errCode (s : State) : (s.completeOk).errCode = .none := rfl
@[simp] theorem State.completeOk_src (s : State) : (s.completeOk).src = s.src := rfl
@[simp] theorem State.completeOk_dst (s : State) : (s.completeOk).dst = s.dst := rfl
@[simp] theorem State.completeOk_len (s : State) : (s.completeOk).len = s.len := rfl
@[simp] theorem State.completeOk_arg0 (s : State) : (s.completeOk).arg0 = s.arg0 := rfl
@[simp] theorem State.completeOk_arg1 (s : State) : (s.completeOk).arg1 = s.arg1 := rfl
@[simp] theorem State.completeOk_result0 (s : State) : (s.completeOk).result0 = s.result0 := rfl
@[simp] theorem State.completeOk_result1 (s : State) : (s.completeOk).result1 = s.result1 := rfl
@[simp] theorem State.completeOk_ekey (s : State) : (s.completeOk).ekey = s.ekey := rfl
@[simp] theorem State.completeOk_dkey (s : State) : (s.completeOk).dkey = s.dkey := rfl
@[simp] theorem State.completeOk_xkeyw (s : State) : (s.completeOk).xkeyw = s.xkeyw := rfl
@[simp] theorem State.completeOk_ectr (s : State) : (s.completeOk).ectr = s.ectr := rfl
@[simp] theorem State.completeOk_dctr (s : State) : (s.completeOk).dctr = s.dctr := rfl
@[simp] theorem State.completeOk_buf (s : State) : (s.completeOk).buf = s.buf := rfl
@[simp] theorem State.completeOk_sb (s : State) : (s.completeOk).sb = s.sb := rfl
@[simp] theorem State.completeOk_sstate (s : State) : (s.completeOk).sstate = s.sstate := rfl
@[simp] theorem State.completeOk_pending (s : State) : (s.completeOk).pending = s.pending := rfl
@[simp] theorem State.completeOk_delay (s : State) : (s.completeOk).delay = s.delay := rfl
@[simp] theorem State.completeOk_draws (s : State) : (s.completeOk).draws = s.draws := rfl
@[simp] theorem State.completeOk_hostQueue (s : State) : (s.completeOk).hostQueue = s.hostQueue := rfl
@[simp] theorem State.completeOk_hostReads (s : State) : (s.completeOk).hostReads = s.hostReads := rfl

/-! ## raise -/

@[simp] theorem State.raise_params (s : State) (e : ErrCode) : (s.raise e).params = s.params := rfl
@[simp] theorem State.raise_acceptBadCsum (s : State) (e : ErrCode) : (s.raise e).acceptBadCsum = s.acceptBadCsum := rfl
@[simp] theorem State.raise_busy (s : State) (e : ErrCode) : (s.raise e).busy = false := rfl
@[simp] theorem State.raise_done (s : State) (e : ErrCode) : (s.raise e).done = true := rfl
@[simp] theorem State.raise_err (s : State) (e : ErrCode) : (s.raise e).err = true := rfl
@[simp] theorem State.raise_errAcc (s : State) (e : ErrCode) : (s.raise e).errAcc = true := rfl
@[simp] theorem State.raise_csumWarn (s : State) (e : ErrCode) : (s.raise e).csumWarn = s.csumWarn := rfl
@[simp] theorem State.raise_overrun (s : State) (e : ErrCode) : (s.raise e).overrun = s.overrun := rfl
@[simp] theorem State.raise_errCode (s : State) (e : ErrCode) : (s.raise e).errCode = e := rfl
@[simp] theorem State.raise_src (s : State) (e : ErrCode) : (s.raise e).src = s.src := rfl
@[simp] theorem State.raise_dst (s : State) (e : ErrCode) : (s.raise e).dst = s.dst := rfl
@[simp] theorem State.raise_len (s : State) (e : ErrCode) : (s.raise e).len = s.len := rfl
@[simp] theorem State.raise_arg0 (s : State) (e : ErrCode) : (s.raise e).arg0 = s.arg0 := rfl
@[simp] theorem State.raise_arg1 (s : State) (e : ErrCode) : (s.raise e).arg1 = s.arg1 := rfl
@[simp] theorem State.raise_result0 (s : State) (e : ErrCode) : (s.raise e).result0 = s.result0 := rfl
@[simp] theorem State.raise_result1 (s : State) (e : ErrCode) : (s.raise e).result1 = s.result1 := rfl
@[simp] theorem State.raise_ekey (s : State) (e : ErrCode) : (s.raise e).ekey = s.ekey := rfl
@[simp] theorem State.raise_dkey (s : State) (e : ErrCode) : (s.raise e).dkey = s.dkey := rfl
@[simp] theorem State.raise_xkeyw (s : State) (e : ErrCode) : (s.raise e).xkeyw = s.xkeyw := rfl
@[simp] theorem State.raise_ectr (s : State) (e : ErrCode) : (s.raise e).ectr = s.ectr := rfl
@[simp] theorem State.raise_dctr (s : State) (e : ErrCode) : (s.raise e).dctr = s.dctr := rfl
@[simp] theorem State.raise_buf (s : State) (e : ErrCode) : (s.raise e).buf = s.buf := rfl
@[simp] theorem State.raise_sb (s : State) (e : ErrCode) : (s.raise e).sb = s.sb := rfl
@[simp] theorem State.raise_sstate (s : State) (e : ErrCode) : (s.raise e).sstate = s.sstate := rfl
@[simp] theorem State.raise_pending (s : State) (e : ErrCode) : (s.raise e).pending = s.pending := rfl
@[simp] theorem State.raise_delay (s : State) (e : ErrCode) : (s.raise e).delay = s.delay := rfl
@[simp] theorem State.raise_draws (s : State) (e : ErrCode) : (s.raise e).draws = s.draws := rfl
@[simp] theorem State.raise_hostQueue (s : State) (e : ErrCode) : (s.raise e).hostQueue = s.hostQueue := rfl
@[simp] theorem State.raise_hostReads (s : State) (e : ErrCode) : (s.raise e).hostReads = s.hostReads := rfl

/-! ## accept -/

@[simp] theorem State.accept_params (s : State) (w : Word) : (s.accept w).params = s.params := rfl
@[simp] theorem State.accept_acceptBadCsum (s : State) (w : Word) : (s.accept w).acceptBadCsum = s.acceptBadCsum := rfl
@[simp] theorem State.accept_busy (s : State) (w : Word) : (s.accept w).busy = true := rfl
@[simp] theorem State.accept_done (s : State) (w : Word) : (s.accept w).done = false := rfl
@[simp] theorem State.accept_err (s : State) (w : Word) : (s.accept w).err = false := rfl
@[simp] theorem State.accept_errAcc (s : State) (w : Word) : (s.accept w).errAcc = s.errAcc := rfl
@[simp] theorem State.accept_csumWarn (s : State) (w : Word) : (s.accept w).csumWarn = s.csumWarn := rfl
@[simp] theorem State.accept_overrun (s : State) (w : Word) : (s.accept w).overrun = s.overrun := rfl
@[simp] theorem State.accept_errCode (s : State) (w : Word) : (s.accept w).errCode = .none := rfl
@[simp] theorem State.accept_src (s : State) (w : Word) : (s.accept w).src = s.src := rfl
@[simp] theorem State.accept_dst (s : State) (w : Word) : (s.accept w).dst = s.dst := rfl
@[simp] theorem State.accept_len (s : State) (w : Word) : (s.accept w).len = s.len := rfl
@[simp] theorem State.accept_arg0 (s : State) (w : Word) : (s.accept w).arg0 = s.arg0 := rfl
@[simp] theorem State.accept_arg1 (s : State) (w : Word) : (s.accept w).arg1 = s.arg1 := rfl
@[simp] theorem State.accept_result0 (s : State) (w : Word) : (s.accept w).result0 = s.result0 := rfl
@[simp] theorem State.accept_result1 (s : State) (w : Word) : (s.accept w).result1 = s.result1 := rfl
@[simp] theorem State.accept_ekey (s : State) (w : Word) : (s.accept w).ekey = s.ekey := rfl
@[simp] theorem State.accept_dkey (s : State) (w : Word) : (s.accept w).dkey = s.dkey := rfl
@[simp] theorem State.accept_xkeyw (s : State) (w : Word) : (s.accept w).xkeyw = s.xkeyw := rfl
@[simp] theorem State.accept_ectr (s : State) (w : Word) : (s.accept w).ectr = s.ectr := rfl
@[simp] theorem State.accept_dctr (s : State) (w : Word) : (s.accept w).dctr = s.dctr := rfl
@[simp] theorem State.accept_buf (s : State) (w : Word) : (s.accept w).buf = s.buf := rfl
@[simp] theorem State.accept_sb (s : State) (w : Word) : (s.accept w).sb = s.sb := rfl
@[simp] theorem State.accept_sstate (s : State) (w : Word) : (s.accept w).sstate = s.sstate := rfl
@[simp] theorem State.accept_pending (s : State) (w : Word) : (s.accept w).pending = w := rfl
@[simp] theorem State.accept_delay (s : State) (w : Word) : (s.accept w).delay = s.delay := rfl
@[simp] theorem State.accept_draws (s : State) (w : Word) : (s.accept w).draws = s.draws := rfl
@[simp] theorem State.accept_hostQueue (s : State) (w : Word) : (s.accept w).hostQueue = s.hostQueue := rfl
@[simp] theorem State.accept_hostReads (s : State) (w : Word) : (s.accept w).hostReads = s.hostReads := rfl

/-! ## respond -/

@[simp] theorem State.respond_params (s : State) (d : BusData) : (s.respond d).params = s.params := rfl
@[simp] theorem State.respond_acceptBadCsum (s : State) (d : BusData) : (s.respond d).acceptBadCsum = s.acceptBadCsum := rfl
@[simp] theorem State.respond_busy (s : State) (d : BusData) : (s.respond d).busy = s.busy := rfl
@[simp] theorem State.respond_done (s : State) (d : BusData) : (s.respond d).done = s.done := rfl
@[simp] theorem State.respond_err (s : State) (d : BusData) : (s.respond d).err = s.err := rfl
@[simp] theorem State.respond_errAcc (s : State) (d : BusData) : (s.respond d).errAcc = s.errAcc := rfl
@[simp] theorem State.respond_csumWarn (s : State) (d : BusData) : (s.respond d).csumWarn = s.csumWarn := rfl
@[simp] theorem State.respond_overrun (s : State) (d : BusData) : (s.respond d).overrun = s.overrun := rfl
@[simp] theorem State.respond_errCode (s : State) (d : BusData) : (s.respond d).errCode = s.errCode := rfl
@[simp] theorem State.respond_src (s : State) (d : BusData) : (s.respond d).src = s.src := rfl
@[simp] theorem State.respond_dst (s : State) (d : BusData) : (s.respond d).dst = s.dst := rfl
@[simp] theorem State.respond_len (s : State) (d : BusData) : (s.respond d).len = s.len := rfl
@[simp] theorem State.respond_arg0 (s : State) (d : BusData) : (s.respond d).arg0 = s.arg0 := rfl
@[simp] theorem State.respond_arg1 (s : State) (d : BusData) : (s.respond d).arg1 = s.arg1 := rfl
@[simp] theorem State.respond_result0 (s : State) (d : BusData) : (s.respond d).result0 = s.result0 := rfl
@[simp] theorem State.respond_result1 (s : State) (d : BusData) : (s.respond d).result1 = s.result1 := rfl
@[simp] theorem State.respond_ekey (s : State) (d : BusData) : (s.respond d).ekey = s.ekey := rfl
@[simp] theorem State.respond_dkey (s : State) (d : BusData) : (s.respond d).dkey = s.dkey := rfl
@[simp] theorem State.respond_xkeyw (s : State) (d : BusData) : (s.respond d).xkeyw = s.xkeyw := rfl
@[simp] theorem State.respond_ectr (s : State) (d : BusData) : (s.respond d).ectr = s.ectr := rfl
@[simp] theorem State.respond_dctr (s : State) (d : BusData) : (s.respond d).dctr = s.dctr := rfl
@[simp] theorem State.respond_buf (s : State) (d : BusData) : (s.respond d).buf = s.buf := rfl
@[simp] theorem State.respond_sb (s : State) (d : BusData) : (s.respond d).sb = s.sb := rfl
@[simp] theorem State.respond_sstate (s : State) (d : BusData) : (s.respond d).sstate = s.sstate := rfl
@[simp] theorem State.respond_pending (s : State) (d : BusData) : (s.respond d).pending = s.pending := rfl
@[simp] theorem State.respond_delay (s : State) (d : BusData) : (s.respond d).delay = s.delay := rfl
@[simp] theorem State.respond_draws (s : State) (d : BusData) : (s.respond d).draws = s.draws := rfl
@[simp] theorem State.respond_hostQueue (s : State) (d : BusData) : (s.respond d).hostQueue = s.hostQueue := rfl
@[simp] theorem State.respond_hostReads (s : State) (d : BusData) : (s.respond d).hostReads = s.hostReads ++ [d] := rfl

/-! ## addWarn -/

@[simp] theorem State.addWarn_params (s : State) (w : Bool) : (s.addWarn w).params = s.params := rfl
@[simp] theorem State.addWarn_acceptBadCsum (s : State) (w : Bool) : (s.addWarn w).acceptBadCsum = s.acceptBadCsum := rfl
@[simp] theorem State.addWarn_busy (s : State) (w : Bool) : (s.addWarn w).busy = s.busy := rfl
@[simp] theorem State.addWarn_done (s : State) (w : Bool) : (s.addWarn w).done = s.done := rfl
@[simp] theorem State.addWarn_err (s : State) (w : Bool) : (s.addWarn w).err = s.err := rfl
@[simp] theorem State.addWarn_errAcc (s : State) (w : Bool) : (s.addWarn w).errAcc = s.errAcc := rfl
@[simp] theorem State.addWarn_csumWarn (s : State) (w : Bool) : (s.addWarn w).csumWarn = (s.csumWarn || w) := rfl
@[simp] theorem State.addWarn_overrun (s : State) (w : Bool) : (s.addWarn w).overrun = s.overrun := rfl
@[simp] theorem State.addWarn_errCode (s : State) (w : Bool) : (s.addWarn w).errCode = s.errCode := rfl
@[simp] theorem State.addWarn_src (s : State) (w : Bool) : (s.addWarn w).src = s.src := rfl
@[simp] theorem State.addWarn_dst (s : State) (w : Bool) : (s.addWarn w).dst = s.dst := rfl
@[simp] theorem State.addWarn_len (s : State) (w : Bool) : (s.addWarn w).len = s.len := rfl
@[simp] theorem State.addWarn_arg0 (s : State) (w : Bool) : (s.addWarn w).arg0 = s.arg0 := rfl
@[simp] theorem State.addWarn_arg1 (s : State) (w : Bool) : (s.addWarn w).arg1 = s.arg1 := rfl
@[simp] theorem State.addWarn_result0 (s : State) (w : Bool) : (s.addWarn w).result0 = s.result0 := rfl
@[simp] theorem State.addWarn_result1 (s : State) (w : Bool) : (s.addWarn w).result1 = s.result1 := rfl
@[simp] theorem State.addWarn_ekey (s : State) (w : Bool) : (s.addWarn w).ekey = s.ekey := rfl
@[simp] theorem State.addWarn_dkey (s : State) (w : Bool) : (s.addWarn w).dkey = s.dkey := rfl
@[simp] theorem State.addWarn_xkeyw (s : State) (w : Bool) : (s.addWarn w).xkeyw = s.xkeyw := rfl
@[simp] theorem State.addWarn_ectr (s : State) (w : Bool) : (s.addWarn w).ectr = s.ectr := rfl
@[simp] theorem State.addWarn_dctr (s : State) (w : Bool) : (s.addWarn w).dctr = s.dctr := rfl
@[simp] theorem State.addWarn_buf (s : State) (w : Bool) : (s.addWarn w).buf = s.buf := rfl
@[simp] theorem State.addWarn_sb (s : State) (w : Bool) : (s.addWarn w).sb = s.sb := rfl
@[simp] theorem State.addWarn_sstate (s : State) (w : Bool) : (s.addWarn w).sstate = s.sstate := rfl
@[simp] theorem State.addWarn_pending (s : State) (w : Bool) : (s.addWarn w).pending = s.pending := rfl
@[simp] theorem State.addWarn_delay (s : State) (w : Bool) : (s.addWarn w).delay = s.delay := rfl
@[simp] theorem State.addWarn_draws (s : State) (w : Bool) : (s.addWarn w).draws = s.draws := rfl
@[simp] theorem State.addWarn_hostQueue (s : State) (w : Bool) : (s.addWarn w).hostQueue = s.hostQueue := rfl
@[simp] theorem State.addWarn_hostReads (s : State) (w : Bool) : (s.addWarn w).hostReads = s.hostReads := rfl

/-! ## setCounter -/

@[simp] theorem State.setCounter_params (s : State) (sel : CtrSel) (c : Counter) : (s.setCounter sel c).params = s.params := by cases sel <;> rfl
@[simp] theorem State.setCounter_acceptBadCsum (s : State) (sel : CtrSel) (c : Counter) : (s.setCounter sel c).acceptBadCsum = s.acceptBadCsum := by cases sel <;> rfl
@[simp] theorem State.setCounter_busy (s : State) (sel : CtrSel) (c : Counter) : (s.setCounter sel c).busy = s.busy := by cases sel <;> rfl
@[simp] theorem State.setCounter_done (s : State) (sel : CtrSel) (c : Counter) : (s.setCounter sel c).done = s.done := by cases sel <;> rfl
@[simp] theorem State.setCounter_err (s : State) (sel : CtrSel) (c : Counter) : (s.setCounter sel c).err = s.err := by cases sel <;> rfl
@[simp] theorem State.setCounter_errAcc (s : State) (sel : CtrSel) (c : Counter) : (s.setCounter sel c).errAcc = s.errAcc := by cases sel <;> rfl
@[simp] theorem State.setCounter_csumWarn (s : State) (sel : CtrSel) (c : Counter) : (s.setCounter sel c).csumWarn = s.csumWarn := by cases sel <;> rfl
@[simp] theorem State.setCounter_overrun (s : State) (sel : CtrSel) (c : Counter) : (s.setCounter sel c).overrun = s.overrun := by cases sel <;> rfl
@[simp] theorem State.setCounter_errCode (s : State) (sel : CtrSel) (c : Counter) : (s.setCounter sel c).errCode = s.errCode := by cases sel <;> rfl
@[simp] theorem State.setCounter_src (s : State) (sel : CtrSel) (c : Counter) : (s.setCounter sel c).src = s.src := by cases sel <;> rfl
@[simp] theorem State.setCounter_dst (s : State) (sel : CtrSel) (c : Counter) : (s.setCounter sel c).dst = s.dst := by cases sel <;> rfl
@[simp] theorem State.setCounter_len (s : State) (sel : CtrSel) (c : Counter) : (s.setCounter sel c).len = s.len := by cases sel <;> rfl
@[simp] theorem State.setCounter_arg0 (s : State) (sel : CtrSel) (c : Counter) : (s.setCounter sel c).arg0 = s.arg0 := by cases sel <;> rfl
@[simp] theorem State.setCounter_arg1 (s : State) (sel : CtrSel) (c : Counter) : (s.setCounter sel c).arg1 = s.arg1 := by cases sel <;> rfl
@[simp] theorem State.setCounter_result0 (s : State) (sel : CtrSel) (c : Counter) : (s.setCounter sel c).result0 = s.result0 := by cases sel <;> rfl
@[simp] theorem State.setCounter_result1 (s : State) (sel : CtrSel) (c : Counter) : (s.setCounter sel c).result1 = s.result1 := by cases sel <;> rfl
@[simp] theorem State.setCounter_ekey (s : State) (sel : CtrSel) (c : Counter) : (s.setCounter sel c).ekey = s.ekey := by cases sel <;> rfl
@[simp] theorem State.setCounter_dkey (s : State) (sel : CtrSel) (c : Counter) : (s.setCounter sel c).dkey = s.dkey := by cases sel <;> rfl
@[simp] theorem State.setCounter_xkeyw (s : State) (sel : CtrSel) (c : Counter) : (s.setCounter sel c).xkeyw = s.xkeyw := by cases sel <;> rfl
@[simp] theorem State.setCounter_ectr (s : State) (sel : CtrSel) (c : Counter) : (s.setCounter sel c).ectr = (if sel = .ectr then c else s.ectr) := by cases sel <;> rfl
@[simp] theorem State.setCounter_dctr (s : State) (sel : CtrSel) (c : Counter) : (s.setCounter sel c).dctr = (if sel = .dctr then c else s.dctr) := by cases sel <;> rfl
@[simp] theorem State.setCounter_buf (s : State) (sel : CtrSel) (c : Counter) : (s.setCounter sel c).buf = s.buf := by cases sel <;> rfl
@[simp] theorem State.setCounter_sb (s : State) (sel : CtrSel) (c : Counter) : (s.setCounter sel c).sb = s.sb := by cases sel <;> rfl
@[simp] theorem State.setCounter_sstate (s : State) (sel : CtrSel) (c : Counter) : (s.setCounter sel c).sstate = s.sstate := by cases sel <;> rfl
@[simp] theorem State.setCounter_pending (s : State) (sel : CtrSel) (c : Counter) : (s.setCounter sel c).pending = s.pending := by cases sel <;> rfl
@[simp] theorem State.setCounter_delay (s : State) (sel : CtrSel) (c : Counter) : (s.setCounter sel c).delay = s.delay := by cases sel <;> rfl
@[simp] theorem State.setCounter_draws (s : State) (sel : CtrSel) (c : Counter) : (s.setCounter sel c).draws = s.draws := by cases sel <;> rfl
@[simp] theorem State.setCounter_hostQueue (s : State) (sel : CtrSel) (c : Counter) : (s.setCounter sel c).hostQueue = s.hostQueue := by cases sel <;> rfl
@[simp] theorem State.setCounter_hostReads (s : State) (sel : CtrSel) (c : Counter) : (s.setCounter sel c).hostReads = s.hostReads := by cases sel <;> rfl

/-! ## succeed -/

@[simp] theorem succeed_params (s : State) (a b : Word) : (succeed s a b).params = s.params := rfl
@[simp] theorem succeed_acceptBadCsum (s : State) (a b : Word) : (succeed s a b).acceptBadCsum = s.acceptBadCsum := rfl
@[simp] theorem succeed_busy (s : State) (a b : Word) : (succeed s a b).busy = false := rfl
@[simp] theorem succeed_done (s : State) (a b : Word) : (succeed s a b).done = true := rfl
@[simp] theorem succeed_err (s : State) (a b : Word) : (succeed s a b).err = false := rfl
@[simp] theorem succeed_errAcc (s : State) (a b : Word) : (succeed s a b).errAcc = s.errAcc := rfl
@[simp] theorem succeed_csumWarn (s : State) (a b : Word) : (succeed s a b).csumWarn = s.csumWarn := rfl
@[simp] theorem succeed_overrun (s : State) (a b : Word) : (succeed s a b).overrun = s.overrun := rfl
@[simp] theorem succeed_errCode (s : State) (a b : Word) : (succeed s a b).errCode = .none := rfl
@[simp] theorem succeed_src (s : State) (a b : Word) : (succeed s a b).src = s.src := rfl
@[simp] theorem succeed_dst (s : State) (a b : Word) : (succeed s a b).dst = s.dst := rfl
@[simp] theorem succeed_len (s : State) (a b : Word) : (succeed s a b).len = s.len := rfl
@[simp] theorem succeed_arg0 (s : State) (a b : Word) : (succeed s a b).arg0 = s.arg0 := rfl
@[simp] theorem succeed_arg1 (s : State) (a b : Word) : (succeed s a b).arg1 = s.arg1 := rfl
@[simp] theorem succeed_result0 (s : State) (a b : Word) : (succeed s a b).result0 = a := rfl
@[simp] theorem succeed_result1 (s : State) (a b : Word) : (succeed s a b).result1 = b := rfl
@[simp] theorem succeed_ekey (s : State) (a b : Word) : (succeed s a b).ekey = s.ekey := rfl
@[simp] theorem succeed_dkey (s : State) (a b : Word) : (succeed s a b).dkey = s.dkey := rfl
@[simp] theorem succeed_xkeyw (s : State) (a b : Word) : (succeed s a b).xkeyw = s.xkeyw := rfl
@[simp] theorem succeed_ectr (s : State) (a b : Word) : (succeed s a b).ectr = s.ectr := rfl
@[simp] theorem succeed_dctr (s : State) (a b : Word) : (succeed s a b).dctr = s.dctr := rfl
@[simp] theorem succeed_buf (s : State) (a b : Word) : (succeed s a b).buf = s.buf := rfl
@[simp] theorem succeed_sb (s : State) (a b : Word) : (succeed s a b).sb = s.sb := rfl
@[simp] theorem succeed_sstate (s : State) (a b : Word) : (succeed s a b).sstate = s.sstate := rfl
@[simp] theorem succeed_pending (s : State) (a b : Word) : (succeed s a b).pending = s.pending := rfl
@[simp] theorem succeed_delay (s : State) (a b : Word) : (succeed s a b).delay = s.delay := rfl
@[simp] theorem succeed_draws (s : State) (a b : Word) : (succeed s a b).draws = s.draws := rfl
@[simp] theorem succeed_hostQueue (s : State) (a b : Word) : (succeed s a b).hostQueue = s.hostQueue := rfl
@[simp] theorem succeed_hostReads (s : State) (a b : Word) : (succeed s a b).hostReads = s.hostReads := rfl

/-! ## failWith -/

@[simp] theorem failWith_params (s : State) (e : ErrCode) : (failWith s e).params = s.params := rfl
@[simp] theorem failWith_acceptBadCsum (s : State) (e : ErrCode) : (failWith s e).acceptBadCsum = s.acceptBadCsum := rfl
@[simp] theorem failWith_busy (s : State) (e : ErrCode) : (failWith s e).busy = false := rfl
@[simp] theorem failWith_done (s : State) (e : ErrCode) : (failWith s e).done = true := rfl
@[simp] theorem failWith_err (s : State) (e : ErrCode) : (failWith s e).err = true := rfl
@[simp] theorem failWith_errAcc (s : State) (e : ErrCode) : (failWith s e).errAcc = true := rfl
@[simp] theorem failWith_csumWarn (s : State) (e : ErrCode) : (failWith s e).csumWarn = s.csumWarn := rfl
@[simp] theorem failWith_overrun (s : State) (e : ErrCode) : (failWith s e).overrun = s.overrun := rfl
@[simp] theorem failWith_errCode (s : State) (e : ErrCode) : (failWith s e).errCode = e := rfl
@[simp] theorem failWith_src (s : State) (e : ErrCode) : (failWith s e).src = s.src := rfl
@[simp] theorem failWith_dst (s : State) (e : ErrCode) : (failWith s e).dst = s.dst := rfl
@[simp] theorem failWith_len (s : State) (e : ErrCode) : (failWith s e).len = s.len := rfl
@[simp] theorem failWith_arg0 (s : State) (e : ErrCode) : (failWith s e).arg0 = s.arg0 := rfl
@[simp] theorem failWith_arg1 (s : State) (e : ErrCode) : (failWith s e).arg1 = s.arg1 := rfl
@[simp] theorem failWith_result0 (s : State) (e : ErrCode) : (failWith s e).result0 = s.result0 := rfl
@[simp] theorem failWith_result1 (s : State) (e : ErrCode) : (failWith s e).result1 = s.result1 := rfl
@[simp] theorem failWith_ekey (s : State) (e : ErrCode) : (failWith s e).ekey = s.ekey := rfl
@[simp] theorem failWith_dkey (s : State) (e : ErrCode) : (failWith s e).dkey = s.dkey := rfl
@[simp] theorem failWith_xkeyw (s : State) (e : ErrCode) : (failWith s e).xkeyw = s.xkeyw := rfl
@[simp] theorem failWith_ectr (s : State) (e : ErrCode) : (failWith s e).ectr = s.ectr := rfl
@[simp] theorem failWith_dctr (s : State) (e : ErrCode) : (failWith s e).dctr = s.dctr := rfl
@[simp] theorem failWith_buf (s : State) (e : ErrCode) : (failWith s e).buf = s.buf := rfl
@[simp] theorem failWith_sb (s : State) (e : ErrCode) : (failWith s e).sb = s.sb := rfl
@[simp] theorem failWith_sstate (s : State) (e : ErrCode) : (failWith s e).sstate = s.sstate := rfl
@[simp] theorem failWith_pending (s : State) (e : ErrCode) : (failWith s e).pending = s.pending := rfl
@[simp] theorem failWith_delay (s : State) (e : ErrCode) : (failWith s e).delay = s.delay := rfl
@[simp] theorem failWith_draws (s : State) (e : ErrCode) : (failWith s e).draws = s.draws := rfl
@[simp] theorem failWith_hostQueue (s : State) (e : ErrCode) : (failWith s e).hostQueue = s.hostQueue := rfl
@[simp] theorem failWith_hostReads (s : State) (e : ErrCode) : (failWith s e).hostReads = s.hostReads := rfl

/-! ## The updates in one another's terms -/

/-- Completing a success is `succeed` with the results the command wrote. -/
theorem State.completeOk_withResults (s : State) (a b : Nat) :
    (s.withResults a b).completeOk = succeed s (BitVec.ofNat 32 a) (BitVec.ofNat 32 b) := rfl

/-- Error entry is `failWith`. -/
theorem State.raise_eq_failWith (s : State) (e : ErrCode) : s.raise e = failWith s e := rfl

/-- An error that writes nothing besides STATUS. -/
@[simp] theorem State.onError_nothing (s : State) : s.onError .nothing = s := rfl

/-- The error of STRNEXT that ends the stream. -/
@[simp] theorem State.onError_terminate (s : State) : s.onError .terminate = { s with sstate := .terminated } := rfl

/-- The error after a tolerated checksum. -/
@[simp] theorem State.onError_warn (s : State) : s.onError .warn = { s with csumWarn := true } := rfl

end Sys2Proof.Machine
end

