-- ==== Sys2Proof/Laws/Command.lean ====
section
/-! SUPPORT. Sys2Proof/Laws/Command.lean: what the shared operations of a command can do, said once: evaluation, reads,
completion, FramePrologue, counters, byte-string lengths. -/

namespace Sys2Proof.Machine

/-! ## Evaluation -/

@[simp] theorem Eval.bind_ok {α β : Type} (a : α) (f : α → Eval β) : (Eval.ok a).bind f = f a := rfl
@[simp] theorem Eval.bind_err {α β : Type} (e : ErrCode) (w : OnError) (f : α → Eval β) :
    (Eval.err e w : Eval α).bind f = .err e w := rfl
@[simp] theorem Eval.bind_fault {α β : Type} (r : Fault) (f : α → Eval β) : (Eval.fault r : Eval α).bind f = .fault r := rfl

theorem Eval.check_pos {α : Type} {c : Prop} [Decidable c] (h : c) (e : ErrCode) (k : Eval α) : Eval.check c e k = k :=
  if_pos h
theorem Eval.check_neg {α : Type} {c : Prop} [Decidable c] (h : ¬ c) (e : ErrCode) (k : Eval α) :
    Eval.check c e k = .err e .nothing :=
  if_neg h

/-- A bind gives a value exactly when both parts do. -/
theorem Eval.bind_eq_ok {α β : Type} {x : Eval α} {f : α → Eval β} {b : β} :
    x.bind f = .ok b ↔ ∃ a, x = .ok a ∧ f a = .ok b := by
  cases x <;> simp [Eval.bind]

/-- A bind raises an error exactly when its first part does, or gives a value on which its second part does. -/
theorem Eval.bind_eq_err {α β : Type} {x : Eval α} {f : α → Eval β} {e : ErrCode} {w : OnError} :
    x.bind f = .err e w ↔ x = .err e w ∨ ∃ a, x = .ok a ∧ f a = .err e w := by
  cases x <;> simp [Eval.bind]

/-- A check passes a value exactly when it holds. -/
theorem Eval.check_eq_ok {α : Type} {c : Prop} [Decidable c] {e : ErrCode} {k : Eval α} {a : α} :
    Eval.check c e k = .ok a ↔ c ∧ k = .ok a := by
  unfold Eval.check
  split <;> simp_all

/-- A check raises an error exactly when it fails, with its code and no further write, or what follows raises one. -/
theorem Eval.check_eq_err {α : Type} {c : Prop} [Decidable c] {e e' : ErrCode} {w : OnError} {k : Eval α} :
    Eval.check c e k = .err e' w ↔ (¬ c ∧ e' = e ∧ w = .nothing) ∨ (c ∧ k = .err e' w) := by
  unfold Eval.check
  split <;> simp_all [eq_comm]

/-- As check_eq_ok, for the checks of SMDECF after its blocks. -/
theorem Eval.checkWarn_eq_ok {α : Type} {c : Prop} [Decidable c] {e : ErrCode} {b : Bool} {k : Eval α} {a : α} :
    Eval.checkWarn c e b k = .ok a ↔ c ∧ k = .ok a := by
  unfold Eval.checkWarn
  split <;> simp_all

/-- As check_eq_err, for the checks of SMDECF after its blocks. -/
theorem Eval.checkWarn_eq_err {α : Type} {c : Prop} [Decidable c] {e e' : ErrCode} {b : Bool} {w : OnError} {k : Eval α} :
    Eval.checkWarn c e b k = .err e' w ↔ (¬ c ∧ e' = e ∧ w = OnError.ofWarn b) ∨ (c ∧ k = .err e' w) := by
  unfold Eval.checkWarn
  split <;> simp_all [eq_comm]

/-- A branch gives a value exactly when the branch taken does. -/
theorem Eval.ite_eq_ok {α : Type} {c : Prop} [Decidable c] {x y : Eval α} {a : α} :
    (if c then x else y) = .ok a ↔ (c ∧ x = .ok a) ∨ (¬ c ∧ y = .ok a) := by
  split <;> simp_all

/-- A branch raises an error exactly when the branch taken does. -/
theorem Eval.ite_eq_err {α : Type} {c : Prop} [Decidable c] {x y : Eval α} {e : ErrCode} {w : OnError} :
    (if c then x else y) = .err e w ↔ (c ∧ x = .err e w) ∨ (¬ c ∧ y = .err e w) := by
  split <;> simp_all

/-! ## Reads -/

@[simp] theorem State.memByte_eq_ok {s : State} {a : Nat} {b : Byte} : s.memByte a = .ok b ↔ s.buf.read a = some b := by
  unfold State.memByte Eval.ofRead
  cases s.buf.read a <;> simp

@[simp] theorem State.memByte_ne_err {s : State} {a : Nat} {e : ErrCode} {w : OnError} : s.memByte a ≠ .err e w := by
  unfold State.memByte Eval.ofRead
  cases s.buf.read a <;> simp

theorem State.memByte_of_some {s : State} {a : Nat} {b : Byte} (h : s.buf.read a = some b) : s.memByte a = .ok b :=
  State.memByte_eq_ok.mpr h

theorem State.memByte_of_none {s : State} {a : Nat} (h : s.buf.read a = none) : s.memByte a = .fault .unwrittenRead := by
  simp [State.memByte, Eval.ofRead, h]

/-- MemRead gives exactly the bytes that stand there. -/
theorem State.memRead_eq_ok {s : State} {a n : Nat} {bs : List Byte} :
    s.memRead a n = .ok bs ↔ bs.length = n ∧ holdsAt s.buf a bs := by
  rw [← Memory.readBytes_eq_some_iff]
  unfold State.memRead Eval.ofRead
  cases s.buf.readBytes a n <;> simp

@[simp] theorem State.memRead_ne_err {s : State} {a n : Nat} {e : ErrCode} {w : OnError} : s.memRead a n ≠ .err e w := by
  unfold State.memRead Eval.ofRead
  cases s.buf.readBytes a n <;> simp

theorem State.memRead_of_holdsAt {s : State} {a : Nat} {bs : List Byte} {n : Nat} (hl : bs.length = n)
    (h : holdsAt s.buf a bs) : s.memRead a n = .ok bs :=
  State.memRead_eq_ok.mpr ⟨hl, h⟩

theorem State.memRead_of_unwritten {s : State} {a n : Nat} (h : unwrittenIn s.buf a n) :
    s.memRead a n = .fault .unwrittenRead := by
  simp [State.memRead, Eval.ofRead, (Memory.readBytes_eq_none_iff _ _ _).mpr h]

/-! ## Completion -/

/-- What the end of a command can be (30_encoding.md R127): the writes and the completion bits, or error entry. -/
theorem State.finish_eq_next {s t : State} {r : Eval State} :
    s.finish r = .next t ↔
      (∃ u, r = .ok u ∧ t = u.completeOk) ∨ (∃ e w, r = .err e w ∧ t = (s.onError w).raise e) := by
  cases r <;> simp [State.finish, eq_comm]

@[simp] theorem State.finish_ok (s u : State) : s.finish (.ok u) = .next u.completeOk := rfl
@[simp] theorem State.finish_err (s : State) (e : ErrCode) (w : OnError) :
    s.finish (.err e w) = .next ((s.onError w).raise e) := rfl
@[simp] theorem State.finish_fault (s : State) (f : Fault) : s.finish (.fault f) = .fault f := rfl

/-! ## Frame headers -/

/-- A header size is 0, 2 or 3. -/
theorem headerSize_cases (m : Byte) : headerSize m = 0 ∨ headerSize m = 2 ∨ headerSize m = 3 := by
  unfold headerSize
  split_ifs <;> simp

/-- The header size of a plain or an encrypted marker. -/
theorem headerSize_eq_two_iff (m : Byte) : headerSize m = 2 ↔ m = 0xC1#8 ∨ m = 0xC3#8 := by
  unfold headerSize
  split_ifs <;> simp_all

theorem headerSize_eq_three_iff (m : Byte) : headerSize m = 3 ↔ m = 0xC2#8 ∨ m = 0xC4#8 := by
  unfold headerSize
  split_ifs <;> simp_all

/-- A valid marker that is not plain is 0xC3 or 0xC4. -/
theorem encrypted_of_not_plain {m : Byte} (h : headerSize m ≠ 0) (hp : plainMarker m = false) : m = 0xC3#8 ∨ m = 0xC4#8 := by
  simp only [plainMarker, Bool.or_eq_false_iff, decide_eq_false_iff_not] at hp
  rcases headerSize_cases m with h0 | h2 | h3
  · exact absurd h0 h
  · rcases (headerSize_eq_two_iff m).mp h2 with h | h
    · exact absurd h hp.1
    · exact .inl h
  · rcases (headerSize_eq_three_iff m).mp h3 with h | h
    · exact absurd h hp.2
    · exact .inr h

theorem plainMarker_eq_true {m : Byte} : plainMarker m = true ↔ m = 0xC1#8 ∨ m = 0xC2#8 := by
  simp [plainMarker]

/-- A declared length fits 16 bits, and 8 bits for a short header. -/
theorem declaredLength_le (b0 b1 b2 : Byte) : declaredLength b0 b1 b2 ≤ lengthLimit (headerSize b0) := by
  have h1 := b1.isLt
  have h2 := b2.isLt
  unfold declaredLength lengthLimit
  split_ifs <;> omega

theorem declaredLength_lt (b0 b1 b2 : Byte) : declaredLength b0 b1 b2 < 65536 := by
  have h := declaredLength_le b0 b1 b2
  unfold lengthLimit at h
  split_ifs at h <;> omega

/-- The length field of a header of size h is h - 1 bytes. -/
theorem length_lengthField {h : Nat} (len : Nat) (hh : h = 2 ∨ h = 3) : (lengthField h len).length = h - 1 := by
  rcases hh with rfl | rfl <;> simp [lengthField]

/-- What FramePrologue says when it returns (30_encoding.md R132). -/
theorem State.framePrologue_ok {s : State} {a : Nat} {full : Bool} {p : Prologue} (h : s.framePrologue a full = .ok p) :
    s.buf.read a = some p.m ∧ p.h = headerSize p.m ∧ (p.h = 2 ∨ p.h = 3) ∧ a + p.h ≤ s.params.bufSize ∧
      (∃ b1 b2, s.buf.read (a + 1) = some b1 ∧ (p.h = 3 → s.buf.read (a + 2) = some b2) ∧
        p.len = declaredLength p.m b1 b2) ∧
      p.h ≤ p.len ∧ p.len < 65536 ∧ (full = true → a + p.len ≤ s.params.bufSize) := by
  simp only [State.framePrologue, Eval.check_eq_ok, Eval.bind_eq_ok, State.memByte_eq_ok, Eval.ok.injEq] at h
  obtain ⟨-, m, hm, hh, hr, b1, h1, b2, h2, h0, hl, hf, rfl⟩ := h
  refine ⟨hm, rfl, ?_, hr, ⟨b1, b2, h1, ?_, rfl⟩, hl, declaredLength_lt _ _ _, hf⟩
  · rcases headerSize_cases m with h | h | h
    · exact absurd h hh
    · exact .inl h
    · exact .inr h
  · intro h3
    rw [if_pos h3, State.memByte_eq_ok] at h2
    exact h2

/-- FramePrologue's errors write nothing besides STATUS, and are the three of 30_encoding.md R132. -/
theorem State.framePrologue_err {s : State} {a : Nat} {full : Bool} {e : ErrCode} {w : OnError}
    (h : s.framePrologue a full = .err e w) :
    w = .nothing ∧ (e = .bufRange ∨ e = .invalidHeaderMarker ∨ e = .invalidLength) := by
  simp only [State.framePrologue, Eval.check_eq_err, Eval.bind_eq_err, State.memByte_ne_err, false_or, reduceCtorEq,
    and_false, or_false] at h
  rcases h with h | ⟨-, m, -, h⟩
  · exact ⟨h.2.2, .inl h.2.1⟩
  rcases h with h | ⟨-, h⟩
  · exact ⟨h.2.2, .inr (.inl h.2.1)⟩
  rcases h with h | ⟨-, b1, -, h⟩
  · exact ⟨h.2.2, .inl h.2.1⟩
  rcases h with h | ⟨b2, -, h⟩
  · split at h
    · exact absurd h State.memByte_ne_err
    · cases h
  rcases h with h | ⟨-, h⟩
  · exact ⟨h.2.2, .inr (.inl h.2.1)⟩
  rcases h with h | ⟨-, h⟩
  · exact ⟨h.2.2, .inr (.inr h.2.1)⟩
  · exact ⟨h.2.2, .inl h.2.1⟩

/-! ## Lengths of the byte strings commands store -/

@[simp] theorem length_setBitAt (bs : List Byte) (p : Nat) : (setBitAt bs p).length = bs.length := by
  simp [setBitAt]

@[simp] theorem length_shiftBytes (dst : List Byte) (dbit : Nat) (src : List Byte) (sbit n : Nat) :
    (shiftBytes dst dbit src sbit n).length = dst.length := by
  induction n with
  | zero => rfl
  | succ n ih =>
    simp only [shiftBytes]
    split <;> simp [ih]

@[simp] theorem length_packBlock (r : Quad) (s x : Byte) : (packBlock r s x).length = 11 := by
  simp [packBlock, bytesOfBits]

@[simp] theorem length_encodeBlock (o : MixOrder) (k : KeySet) (b : List Byte) : (encodeBlock o k b).eb.length = 11 := by
  simp [encodeBlock]

@[simp] theorem length_decodeBlock (o : MixOrder) (d : KeySet) (eb : List Byte) : (decodeBlock o d eb).o.length = 8 := by
  simp [decodeBlock, unmodRing, wordBytes]

@[simp] theorem length_encodeBlocks (o : MixOrder) (key : KeySet) (k : Nat) (c : List Byte) :
    (encodeBlocks o key k c).length = 11 * k := by
  induction k generalizing c with
  | zero => rfl
  | succ k ih => simp [encodeBlocks, ih]; omega

@[simp] theorem length_xorAt (key : Vector Word 8) (f : List Byte) (i : Nat) : (xorAt key f i).length = f.length := by
  simp [xorAt]

theorem length_foldl_xorAt (key : Vector Word 8) (is : List Nat) (f : List Byte) :
    (is.foldl (xorAt key) f).length = f.length := by
  induction is generalizing f with
  | nil => rfl
  | cons i is ih => simp [ih]

@[simp] theorem length_xorEncode (key : Vector Word 8) (h : Nat) (f : List Byte) : (xorEncode key h f).length = f.length :=
  length_foldl_xorAt _ _ _

@[simp] theorem length_xorDecode (key : Vector Word 8) (h : Nat) (f : List Byte) : (xorDecode key h f).length = f.length :=
  length_foldl_xorAt _ _ _

/-! ## Key sets and bits -/

/-- The key check, in the spec's words (10_state.md R39). -/
theorem keyUsable_eq_true {k : KeySet} : keyUsable k = true ↔ ¬ zeroModulus k := by
  unfold keyUsable zeroModulus modWord
  simp only [Bool.and_eq_true, decide_eq_true_eq]
  constructor
  · rintro ⟨⟨⟨a, b⟩, c⟩, d⟩ ⟨i, hi⟩
    match i with
    | 0 => exact a hi
    | 1 => exact b hi
    | 2 => exact c hi
    | 3 => exact d hi
  · intro h
    exact ⟨⟨⟨fun h0 => h ⟨0, h0⟩, fun h0 => h ⟨1, h0⟩⟩, fun h0 => h ⟨2, h0⟩⟩, fun h0 => h ⟨3, h0⟩⟩

/-- Setting one bit of a byte string, read in bit-stream order (00_scope.md R9). -/
theorem bitAt_setBitAt (bs : List Byte) (p q : Nat) (hp : p / 8 < bs.length) :
    bitAt (setBitAt bs p) q = (bitAt bs q || decide (q = p)) := by
  unfold bitAt setBitAt
  by_cases h : q / 8 = p / 8
  · rw [h]
    have h1 : (bs.modify (p / 8) (· ||| (1#8 <<< (7 - p % 8)))).getD (p / 8) 0#8 = bs[p / 8] ||| (1#8 <<< (7 - p % 8)) := by
      simp [hp]
    have h2 : bs.getD (p / 8) 0#8 = bs[p / 8] := by simp [hp]
    rw [h1, h2, BitVec.getLsbD_or]
    congr 1
    by_cases hq : q = p
    · subst hq
      simp
      omega
    · have : q % 8 ≠ p % 8 := by omega
      simp [hq]
      omega
  · have h1 : (bs.modify (p / 8) (· ||| (1#8 <<< (7 - p % 8)))).getD (q / 8) 0#8 = bs.getD (q / 8) 0#8 := by
      simp [Ne.symm h]
    have hq : q ≠ p := by
      rintro rfl
      exact h rfl
    rw [h1]
    simp [hq]

/-! ## Decoded blocks -/

/-- What the checks on a decoded block say when they pass (42_simple_modulus.md R214, R217, R220). -/
theorem State.checkBlock_eq_ok {s : State} {warn w : Bool} {p : Plain} :
    s.checkBlock warn p = .ok w ↔ blockAccepted s.acceptBadCsum p ∧ w = (warn || !p.ok) := by
  unfold State.checkBlock blockAccepted Config.decBlock
  split_ifs with h1 h2
  · simp [h1]
  · have hk : p.ok = true ∨ s.acceptBadCsum = true := by
      cases hp : p.ok <;> cases ha : s.acceptBadCsum <;> simp_all
    exact ⟨fun h => ⟨⟨hk, h2⟩, (Eval.ok.inj h).symm⟩, fun h => by rw [h.2]⟩
  · exact ⟨fun h => (by cases h), fun h => absurd h.1.2 h2⟩

/-- What the checks on a decoded block say when they fail, and that a warning is left only under the accept policy. -/
theorem State.checkBlock_eq_err {s : State} {warn : Bool} {p : Plain} {e : ErrCode} {w : OnError} :
    s.checkBlock warn p = .err e w ↔
      (p.ok = false ∧ s.acceptBadCsum = false ∧ e = .invalidBlockChecksum ∧ w = .ofWarn warn) ∨
      ((p.ok = true ∨ s.acceptBadCsum = true) ∧ (p.n = 0 ∨ 8 < p.n) ∧ e = .blockSize ∧ w = .ofWarn (warn || !p.ok)) := by
  unfold State.checkBlock Config.decBlock
  split_ifs with h1 h2
  · constructor
    · intro h
      cases h
      exact .inl ⟨h1.1, h1.2, rfl, rfl⟩
    · rintro (⟨-, -, rfl, rfl⟩ | ⟨h | h, -⟩)
      · rfl
      · simp [h1.1] at h
      · simp [h1.2] at h
  · have : ¬ (p.n = 0 ∨ 8 < p.n) := by omega
    refine ⟨fun h => (by cases h), ?_⟩
    rintro (h | h)
    · exact absurd ⟨h.1, h.2.1⟩ h1
    · exact absurd h.2.1 this
  · have h3 : p.n = 0 ∨ 8 < p.n := by omega
    have hk : p.ok = true ∨ s.acceptBadCsum = true := by
      cases hp : p.ok <;> cases ha : s.acceptBadCsum <;> simp_all
    constructor
    · intro h
      cases h
      exact .inr ⟨hk, h3, rfl, rfl⟩
    · rintro (h | ⟨-, -, rfl, rfl⟩)
      · exact absurd ⟨h.1, h.2.1⟩ h1
      · rfl

/-- The blocks of a frame, when all are accepted: the content they give and whether one was tolerated (R215, R217). -/
theorem State.decodeBlocks_of_accepted {s : State} (ebs : List (List Byte)) (a : Nat) (warn : Bool)
    (hl : ∀ b ∈ ebs, b.length = 11) (hh : holdsAt s.buf a ebs.flatten)
    (ha : ∀ q ∈ ebs.map (decodeBlock s.params.encMixOrder s.dkey), blockAccepted s.acceptBadCsum q) :
    s.decodeBlocks ebs.length a warn =
      .ok (contentOf (ebs.map (decodeBlock s.params.encMixOrder s.dkey)),
        warn || anyMismatch (ebs.map (decodeBlock s.params.encMixOrder s.dkey))) := by
  induction ebs generalizing a warn with
  | nil => simp [State.decodeBlocks, contentOf, anyMismatch]
  | cons eb ebs ih =>
    have hb : eb.length = 11 := hl eb (by simp)
    have h0 : holdsAt s.buf a eb := fun j b hj => hh j b (by
      rw [List.flatten_cons, List.getElem?_append_left (by rw [List.getElem?_eq_some_iff] at hj; exact hj.1)]
      exact hj)
    have h1 : holdsAt s.buf (a + 11) ebs.flatten := fun j b hj => by
      have := hh (11 + j) b (by rw [List.flatten_cons, List.getElem?_append_right (by omega), hb]; simpa using hj)
      rwa [← Nat.add_assoc] at this
    have hq := ha (decodeBlock s.params.encMixOrder s.dkey eb) (by simp)
    have hrest := ih (a + 11) (warn || !(decodeBlock s.params.encMixOrder s.dkey eb).ok)
      (fun b hb => hl b (by simp [hb])) h1 (fun q hq => ha q (by simp only [List.map_cons, List.mem_cons]; exact .inr hq))
    simp only [List.length_cons, State.decodeBlocks, State.memRead_of_holdsAt hb h0, Eval.bind_ok,
      State.checkBlock_eq_ok.mpr ⟨hq, rfl⟩, Config.encBlock, hrest]
    simp [contentOf, anyMismatch, Bool.or_assoc]

end Sys2Proof.Machine
end

