-- ==== Sys2Proof/Laws/HostPort.lean ====
section
/-! SUPPORT. Sys2Proof/Laws/HostPort.lean: the register map and the register accesses, said once. -/

namespace Sys2Proof.Machine

/-- Every register is found at its offset. -/
@[simp] theorem regAt_offset (r : Reg) : regAt r.offset = some r := by
  have h : ∀ r ∈ allRegs, regAt r.offset = some r := by decide
  exact h r (by cases r <;> simp [allRegs])

/-- What regAt finds stands at the offset asked for. -/
theorem offset_of_regAt {off : Nat} {r : Reg} (h : regAt off = some r) : off = r.offset := by
  have h' := List.find?_some h
  simp only [decide_eq_true_eq] at h'
  exact h'.symm

/-- Nothing is found where no register stands. -/
theorem regAt_eq_none {off : Nat} (h : ∀ r : Reg, off ≠ r.offset) : regAt off = none := by
  cases hr : regAt off with
  | none => rfl
  | some r => exact absurd (offset_of_regAt hr) (h r)

/-- Every register is an aligned word below the window. -/
theorem Reg.offset_aligned (r : Reg) : r.offset + 4 ≤ 0x10000 ∧ r.offset % 4 = 0 := by
  cases r <;> simp [Reg.offset] <;> omega

/-- A 32-bit write to a register, said once (10_state.md R32; 70_reset_and_hazards.md R390). -/
theorem State.hostWrite_reg (s : State) (r : Reg) (v : Word) :
    s.hostWrite r.offset (.d32 v) =
      if s.busy && !r.writableBusy then .fault .busyWrite else .next (s.writeReg r v) := by
  obtain ⟨h1, h2⟩ := r.offset_aligned
  have h3 : r.offset < 65536 := by omega
  have h4 : ¬ (Config.windowBase + s.params.bufSize < r.offset + 4) := by simp only [Config.windowBase]; omega
  simp [State.hostWrite, BusData.width, Width.bytes, registerAccess, h2, h3, h4]

/-- A 32-bit read of a register, said once (10_state.md R32; 70_reset_and_hazards.md R391). -/
theorem State.hostRead_reg (s : State) (r : Reg) :
    s.hostRead .w32 r.offset =
      if r = .status then .next s.readStatus
      else if s.busy && r.readHazard then .fault .busyRead else .next (s.respond (.d32 (s.regValue r))) := by
  obtain ⟨h1, h2⟩ := r.offset_aligned
  have h3 : r.offset < 65536 := by omega
  have h4 : ¬ (Config.windowBase + s.params.bufSize < r.offset + 4) := by simp only [Config.windowBase]; omega
  simp only [State.hostRead, Width.bytes, registerAccess, regAt_offset, h2, h3, h4]
  cases r <;> simp

/-- An access at PCB_BASE + off reaches offset off. -/
@[simp] theorem State.onBus_base (s : State) (off : Nat) (f : Nat → Host.Outcome State Fault Refusal) :
    s.onBus (s.params.pcbBase + off) f = f off := by
  simp [State.onBus]

/-- An access below PCB_BASE is refused. -/
theorem State.onBus_below {s : State} {addr : Nat} (h : addr < s.params.pcbBase)
    (f : Nat → Host.Outcome State Fault Refusal) : s.onBus addr f = .refused .outsidePcb := if_pos h

/-- A next state on the bus is the next state of the access at its offset: all that onBus can do. -/
theorem State.onBus_eq_next {s t : State} {addr : Nat} {f : Nat → Host.Outcome State Fault Refusal} :
    s.onBus addr f = .next t ↔ s.params.pcbBase ≤ addr ∧ f (addr - s.params.pcbBase) = .next t := by
  unfold State.onBus
  split
  · next h => exact ⟨fun h' => (nomatch h'), fun h' => absurd h (Nat.not_lt.mpr h'.1)⟩
  · next h => exact ⟨fun h' => ⟨Nat.not_lt.mp h, h'⟩, fun h' => h'.2⟩

/-- An access of another width has no next state. -/
theorem State.hostOtherWidth_ne_next {s t : State} {n off : Nat} : s.hostOtherWidth n off ≠ .next t := by
  unfold State.hostOtherWidth
  split <;> exact fun h => nomatch h

/-- The bytes of bus data are as many as its width says. -/
@[simp] theorem BusData.length_toBytes (d : BusData) : d.toBytes.length = d.width.bytes := by
  cases d <;> rfl

end Sys2Proof.Machine
end

