-- ==== Sys2Proof/Laws/PerInstr.lean ====
section
/-! SUPPORT. Sys2Proof/Laws/PerInstr.lean: what holds of each command as syntax: its word is legal and decodes back. -/

namespace Sys2Proof.Laws.EncodeLegal

/-- The word of the command is legal (30_encoding.md R124), has no bit above SEL, and decodes back to the command. -/
def Statement (i : Instr) : Prop :=
  commandWordLegal (encode i) = true ∧ (encode i).toNat < 2 ^ 9 ∧ decode (encode i) = .command i

theorem nop : Statement .nop := by unfold Statement; decide
theorem hdrsize : Statement .hdrsize := by unfold Statement; decide
theorem declen : Statement .declen := by unfold Statement; decide
theorem pkttype : Statement .pkttype := by unfold Statement; decide
theorem pktsub : Statement .pktsub := by unfold Statement; decide
theorem wrhdr : Statement .wrhdr := by unfold Statement; decide
theorem encsize : Statement .encsize := by unfold Statement; decide
theorem decsize : Statement .decsize := by unfold Statement; decide
theorem shift : Statement .shift := by unfold Statement; decide
theorem smencb : Statement .smencb := by unfold Statement; decide
theorem smdecb : Statement .smdecb := by unfold Statement; decide
theorem smencf : Statement .smencf := by unfold Statement; decide
theorem smdecf : Statement .smdecf := by unfold Statement; decide
theorem xorenc : Statement .xorenc := by unfold Statement; decide
theorem xordec : Statement .xordec := by unfold Statement; decide
theorem ctrinc (sel : CtrSel) : Statement (.ctrinc sel) := by cases sel <;> (unfold Statement; decide)
theorem ctrrst (sel : CtrSel) : Statement (.ctrrst sel) := by cases sel <;> (unfold Statement; decide)
theorem strfeed : Statement .strfeed := by unfold Statement; decide
theorem strnext : Statement .strnext := by unfold Statement; decide
theorem strclose : Statement .strclose := by unfold Statement; decide
theorem strreset : Statement .strreset := by unfold Statement; decide

end Sys2Proof.Laws.EncodeLegal
end

