-- ==== Sys2Proof/Tests/Slice0.lean ====
section
/-! SUPPORT. Sys2Proof/Tests/Slice0.lean: the model's own tests. Every expected value is from the spec: the words of
30_encoding.md R122, the examples of the command rules, the vectors of 95_test_vectors.md. -/

namespace Sys2Proof.Machine.Tests

/-! ## Helpers -/

/-- What a field of the next state is, if there is a next state. -/
def after {α : Type} (o : Host.Outcome State Fault Refusal) (f : State → α) : Option α :=
  match o with
  | .next t => some (f t)
  | _ => none

/-- Whether an outcome is this fault. -/
def faults (o : Host.Outcome State Fault Refusal) (f : Fault) : Bool :=
  match o with
  | .fault g => g = f
  | _ => false

/-- Whether an outcome is this refusal. -/
def refuses (o : Host.Outcome State Fault Refusal) (r : Refusal) : Bool :=
  match o with
  | .refused q => q = r
  | _ => false

/-- The reset state with bytes in BUF and with SRC and DST set. -/
def withBytes (a : Nat) (bs : List Byte) (src dst : Word) : State :=
  { State.reset with buf := Memory.writeBytes [] a bs, src := src, dst := dst }

/-- The reset state with the decryption keys that match its encryption keys (70_reset_and_hazards.md R384). -/
def withMatchingKeys (a : Nat) (bs : List Byte) (src dst : Word) : State :=
  { withBytes a bs src dst with dkey := ksS2cDec }

/-- A state with a pending command and a long delay. -/
def busyState : State := { State.reset.accept 0#32 with delay := 5 }

/-! ## Legal words: one ill-formed word for each check (30_encoding.md R124; 95_test_vectors.md section 11) -/

theorem test_reserved_op_refused : opDefined 0x00000006#32 = false ∧ commandWordLegal 0x00000006#32 = false := by decide
theorem test_mbz_bit_refused : mbzZero 0x80000000#32 = false ∧ commandWordLegal 0x80000000#32 = false := by decide
theorem test_sel_on_plain_op_refused : selAllowed 0x00000101#32 = false ∧ commandWordLegal 0x00000101#32 = false := by
  decide
theorem test_ctrinc_d_word_legal : commandWordLegal 0x00000120#32 = true := by decide
theorem test_every_instr_wellFormed : (Instr.ctrinc .dctr).wellFormed = true := by decide

/-! ## Decoding: every constructor's word, written out from 30_encoding.md R122 -/

theorem test_decode_nop : decode 0b00000000000000000000000000000000#32 = .command .nop := by decide
theorem test_decode_hdrsize : decode 0b00000000000000000000000000000001#32 = .command .hdrsize := by decide
theorem test_decode_declen : decode 0b00000000000000000000000000000010#32 = .command .declen := by decide
theorem test_decode_pkttype : decode 0b00000000000000000000000000000011#32 = .command .pkttype := by decide
theorem test_decode_pktsub : decode 0b00000000000000000000000000000100#32 = .command .pktsub := by decide
theorem test_decode_wrhdr : decode 0b00000000000000000000000000000101#32 = .command .wrhdr := by decide
theorem test_decode_encsize : decode 0b00000000000000000000000000001000#32 = .command .encsize := by decide
theorem test_decode_decsize : decode 0b00000000000000000000000000001001#32 = .command .decsize := by decide
theorem test_decode_shift : decode 0b00000000000000000000000000001010#32 = .command .shift := by decide
theorem test_decode_smencb : decode 0b00000000000000000000000000010000#32 = .command .smencb := by decide
theorem test_decode_smdecb : decode 0b00000000000000000000000000010001#32 = .command .smdecb := by decide
theorem test_decode_smencf : decode 0b00000000000000000000000000010010#32 = .command .smencf := by decide
theorem test_decode_smdecf : decode 0b00000000000000000000000000010011#32 = .command .smdecf := by decide
theorem test_decode_xorenc : decode 0b00000000000000000000000000011000#32 = .command .xorenc := by decide
theorem test_decode_xordec : decode 0b00000000000000000000000000011001#32 = .command .xordec := by decide
theorem test_decode_ctrinc_e : decode 0b00000000000000000000000000100000#32 = .command (.ctrinc .ectr) := by decide
theorem test_decode_ctrinc_d : decode 0b00000000000000000000000100100000#32 = .command (.ctrinc .dctr) := by decide
theorem test_decode_ctrrst_e : decode 0b00000000000000000000000000100001#32 = .command (.ctrrst .ectr) := by decide
theorem test_decode_ctrrst_d : decode 0b00000000000000000000000100100001#32 = .command (.ctrrst .dctr) := by decide
theorem test_decode_strfeed : decode 0b00000000000000000000000000110000#32 = .command .strfeed := by decide
theorem test_decode_strnext : decode 0b00000000000000000000000000110001#32 = .command .strnext := by decide
theorem test_decode_strclose : decode 0b00000000000000000000000000110010#32 = .command .strclose := by decide
theorem test_decode_strreset : decode 0b00000000000000000000000000110011#32 = .command .strreset := by decide
theorem test_decode_reserved : decode 0x00000006#32 = .illegal .reservedOp := by decide
theorem test_decode_mbz : decode 0x00000220#32 = .illegal .mbzNotZero := by decide
theorem test_decode_sel : decode 0x00000101#32 = .illegal .selNotAllowed := by decide
theorem test_encode_ctrrst_d : encode (.ctrrst .dctr) = 0x00000121#32 := by decide
theorem test_decodeTableWord : decodeTableWord 32 0x120 = some (.ctrinc .dctr) := by decide

/-! ## The first instruction after reset -/

theorem test_step_runs_fetch_word : after (step (State.reset.withFetchWord 32 0x20)) (·.ectr.count) = some 1#8 := by decide
theorem test_step_illegal_word : after (step (State.reset.withFetchWord 32 0x06)) State.statusWord = some 0x00000F0E#32 := by
  decide

/-! ## One or two vectors for each command -/

/-- 46_system.md R330: after a failed command, NOP gives STATUS = 0x0000000A. -/
theorem test_nop : after (exec .nop (State.reset.raise .counterMismatch)) State.statusWord = some 0x0000000A#32 := by decide

/-- 44_framer.md R272. -/
theorem test_hdrsize :
    after (exec .hdrsize (withBytes 0 [0xC4] 0 0)) (fun t => (t.result0, t.result1)) = some (3#32, 0xC4#32) := by decide
theorem test_hdrsize_unwritten : faults (exec .hdrsize State.reset) .unwrittenRead = true := by decide

/-- 44_framer.md R273. -/
theorem test_declen :
    after (exec .declen (withBytes 0 [0xC2, 0x12, 0x34] 0 0)) (fun t => (t.result0, t.result1)) = some (4660#32, 3#32) := by
  decide
/-- 70_reset_and_hazards.md R382: the third byte is read even for a short header. -/
theorem test_declen_third_byte : faults (exec .declen (withBytes 0 [0xC1, 0x05] 0 0)) .unwrittenRead = true := by decide

/-- 44_framer.md R274, R275. -/
theorem test_pkttype :
    after (exec .pkttype (withBytes 0 [0xC1, 0x05, 0xF3, 0x10, 0x22] 0 0)) (fun t => (t.result0, t.result1)) =
      some (0xF3#32, 5#32) := by decide
theorem test_pktsub :
    after (exec .pktsub (withBytes 0 [0xC1, 0x05, 0xF3, 0x10, 0x22] 0 0)) (fun t => (t.result0, t.result1)) =
      some (0x10#32, 5#32) := by decide
theorem test_pktsub_short : after (exec .pktsub (withBytes 0 [0xC1, 0x03, 0xF3] 0 0)) (·.errCode) = some .invalidLength := by
  decide

/-- 44_framer.md R276. -/
theorem test_wrhdr :
    after (exec .wrhdr { State.reset with arg0 := 0xC2, len := 0x0102, dst := 0x40 }) (fun t => (t.buf, t.result0)) =
      some ([(0x40, 0xC2), (0x41, 0x01), (0x42, 0x02)], 3#32) := by decide
theorem test_wrhdr_short_256 :
    after (exec .wrhdr { State.reset with arg0 := 0xC1, len := 256 }) (·.errCode) = some .invalidLength := by decide

/-- 41_cipher_core.md R182, 95_test_vectors.md section 8. -/
theorem test_encsize :
    after (exec .encsize (withBytes 0 [0xC4, 0xBA, 0x2A] 0 0)) (fun t => (t.result0, t.result1)) =
      some (65530#32, 5957#32) := by decide
theorem test_encsize_overflow : after (exec .encsize (withBytes 0 [0xC3, 0xBA] 0 0)) (·.errCode) = some .lengthOverflow := by
  decide

/-- 41_cipher_core.md R183, 95_test_vectors.md section 8. -/
theorem test_decsize :
    after (exec .decsize (withBytes 0 [0xC4, 0x00, 0x19] 0 0)) (fun t => (t.result0, t.result1)) = some (18#32, 2#32) := by
  decide
theorem test_decsize_partial : after (exec .decsize (withBytes 0 [0xC3, 0x0C] 0 0)) (·.errCode) = some .invalidLength := by
  decide

/-- 41_cipher_core.md R181, 95_test_vectors.md section 8: OR-merge, and the 0x16 offset. -/
theorem test_shift_merge :
    after (exec .shift { withBytes 0 [0xB4, 0x81, 0x81] 0 1 with arg0 := 2, arg1 := 6, len := 4 })
      (fun t => (t.buf.readBytes 1 2, t.result0)) = some (some [0x83, 0xC1], 10#32) := by decide
theorem test_shift_overlap :
    after (exec .shift { withBytes 0 [0x0F, 0xF0] 0 0 with arg0 := 4, len := 8 }) (·.buf.readBytes 0 2) =
      some (some [0xFF, 0xF0]) := by decide

/-- 42_simple_modulus.md R206, R211, 95_test_vectors.md section 3. -/
theorem test_encodeBlock_desc :
    encodeBlock .desc ksS2cEnc [0x00, 0x01] =
      { eb := [0x7B, 0xC3, 0x34, 0x66, 0x9E, 0xF5, 0x77, 0xAA, 0x69, 0xC6, 0xF9], x := 0xF9 } := by decide
theorem test_encodeBlock_asc :
    (encodeBlock .asc ksC2sEnc [0x41, 0x42, 0x43]).eb =
      [0x07, 0x9D, 0x5B, 0x29, 0x55, 0xC5, 0x63, 0x33, 0xA0, 0x86, 0xB8] := by decide
theorem test_decodeBlock_mismatch :
    decodeBlock .desc ksC2sDec [0x7B, 0xC3, 0x34, 0x66, 0x9E, 0xF5, 0x77, 0xAA, 0x69, 0xC6, 0xF9] =
      { o := [0x01, 0x3E, 0x97, 0x0A, 0xBE, 0xB9, 0x21, 0x7F], n := 2, ok := false } := by decide
/-- 42_simple_modulus.md R221: a flip that escapes the checksum. -/
theorem test_decodeBlock_escape :
    decodeBlock .desc ksS2cDec [0xB0, 0xF5, 0x01, 0x2F, 0xC8, 0x74, 0x07, 0xAA, 0x9D, 0x73, 0x46] =
      { o := [0xE6, 0xF1, 0x3A, 0x51, 0x0E, 0x45, 0x0E, 0x87], n := 8, ok := true } := by decide

/-- 95_test_vectors.md section 9, B1 and B5. -/
theorem test_smencb :
    after (exec .smencb { withBytes 0x10 [0x00, 0x01] 0x10 0x20 with len := 2 })
      (fun t => (t.buf.readBytes 0x20 11, t.result0, t.result1)) =
      some (some [0x7B, 0xC3, 0x34, 0x66, 0x9E, 0xF5, 0x77, 0xAA, 0x69, 0xC6, 0xF9], 11#32, 0xF9#32) := by decide
theorem test_smencb_zero_key :
    after (exec .smencb { withBytes 0x10 [0x00, 0x01] 0x10 0x20 with len := 2, ekey := ksS2cEnc.set 2 0 }) (·.errCode) =
      some .keyInvalid := by decide

/-- 95_test_vectors.md section 9, B6 and B9. -/
theorem test_smdecb :
    after (exec .smdecb (withMatchingKeys 0x20 [0x7B, 0xC3, 0x34, 0x66, 0x9E, 0xF5, 0x77, 0xAA, 0x69, 0xC6, 0xF9] 0x20 0x40))
      (fun t => (t.buf.readBytes 0x40 8, t.result0, t.result1)) =
      some (some [0x00, 0x01, 0x00, 0x00, 0x00, 0x00, 0x00, 0x00], 2#32, 1#32) := by decide
theorem test_smdecb_accept :
    after (exec .smdecb
      { withMatchingKeys 0x20 [0x7B, 0xC3, 0x34, 0x66, 0x9E, 0xF5, 0x77, 0xA2, 0x69, 0xC6, 0xF9] 0x20 0x40 with
          acceptBadCsum := true })
      (fun t => (t.buf.readBytes 0x40 8, t.statusWord)) =
      some (some [0x00, 0x01, 0x00, 0x00, 0x23, 0xC1, 0x0C, 0xDF], 0x00000012#32) := by decide

/-- 95_test_vectors.md section 4.1, F5: a frame of two blocks. -/
theorem test_smencf :
    after (exec .smencf
      { withBytes 0 [0xC3, 0x0A, 0x11, 0x12, 0x13, 0x14, 0x15, 0x16, 0x17, 0x18] 0 0x100 with
          ectr := { count := 0x2A, min := 0, max := 255 } })
      (fun t => (t.buf.readBytes 0x100 24, t.ectr.count)) =
      some (some [0xC3, 0x18, 0x56, 0x65, 0x04, 0x24, 0x05, 0xDE, 0x13, 0x50, 0x06, 0xF7, 0xC2, 0x1B, 0xA6, 0x19, 0xD8, 0x4B,
        0xBE, 0x62, 0x49, 0x02, 0xDC, 0xE0], 0x2B#8) := by decide

/-- 95_test_vectors.md section 4.3: blocks of 2 and 3 bytes. -/
theorem test_smdecf_prefixes :
    after (exec .smdecf (withMatchingKeys 0 [0xC3, 0x18, 0x3E, 0x39, 0x26, 0x20, 0x44, 0x14, 0x01, 0x69, 0x71, 0x6D, 0x52,
      0x64, 0x39, 0x01, 0xFD, 0x5F, 0x31, 0x80, 0x6E, 0x44, 0x6C, 0x52] 0 0x100))
      (fun t => (t.buf.readBytes 0x100 6, t.dctr.count)) = some (some [0xC3, 0x06, 0xAA, 0xBB, 0xCC, 0xDD], 1#8) := by decide
/-- 95_test_vectors.md section 4.4, X8: CSUM_WARN is set although the command fails. -/
theorem test_smdecf_warn_on_error :
    after (exec .smdecf
      { withMatchingKeys 0 [0xC3, 0x0D, 0x7A, 0xC3, 0x34, 0x66, 0x9E, 0xF5, 0x77, 0xAA, 0x69, 0xC6, 0xF9] 0 0x100 with
          acceptBadCsum := true })
      State.statusWord = some 0x0000031E#32 := by decide

/-- 43_xor32.md R251, R252, 95_test_vectors.md section 5. -/
theorem test_xorenc :
    after (exec .xorenc (withBytes 0 [0xC2, 0x00, 0x06, 0x10, 0x20, 0x30] 0 0)) (·.buf.readBytes 0 6) =
      some (some [0xC2, 0x00, 0x06, 0x10, 0x8C, 0x0E]) := by decide
theorem test_xordec :
    after (exec .xordec (withBytes 0 [0xC2, 0x00, 0x06, 0x10, 0x20, 0x30] 0 0)) (·.buf.readBytes 0 6) =
      some (some [0xC2, 0x00, 0x06, 0x10, 0x8C, 0xA2]) := by decide

/-- 40_counter.md R162, 95_test_vectors.md section 6: MIN > MAX. -/
theorem test_ctrinc_min_above_max :
    after (exec (.ctrinc .ectr) { State.reset with ectr := { count := 3, min := 10, max := 5 } })
      (fun t => (t.ectr.count, t.result0, t.result1)) = some (4#8, 4#32, 3#32) := by decide
theorem test_ctrinc_wraps :
    after (exec (.ctrinc .dctr) { State.reset with dctr := { count := 255, min := 0, max := 255 } })
      (fun t => (t.dctr.count, t.result0, t.result1)) = some (0#8, 0#32, 255#32) := by decide
theorem test_ctrrst :
    after (exec (.ctrrst .dctr) { State.reset with dctr := { count := 7, min := 3, max := 9 } })
      (fun t => (t.dctr.count, t.result0, t.result1)) = some (3#8, 3#32, 7#32) := by decide

/-- 45_stream_reader.md R302. -/
theorem test_strfeed :
    after (exec .strfeed { withBytes 0 [0x03, 0xAA, 0xC2] 0 0 with sb := [0xC1], len := 3 }) (fun t => (t.sb, t.result0)) =
      some ([0xC1, 0x03, 0xAA, 0xC2], 4#32) := by decide
/-- 45_stream_reader.md R303, 95_test_vectors.md section 10. -/
theorem test_strnext :
    after (exec .strnext { State.reset with sb := [0xC1, 0x03, 0xAA, 0xC2] })
      (fun t => (t.buf.readBytes 0 3, t.sb, t.result1)) = some (some [0xC1, 0x03, 0xAA], [0xC2], 1#32) := by decide
theorem test_strnext_bad_length :
    after (exec .strnext { State.reset with sb := [0xC1, 0x01, 0x00] }) State.statusWord = some 0x0000044E#32 := by decide
/-- 45_stream_reader.md R304, R305. -/
theorem test_strclose :
    after (exec .strclose { State.reset with sb := [0xC1, 0x02] }) (fun t => (t.statusWord, t.result0)) =
      some (0x00000082#32, 2#32) := by decide
theorem test_strreset :
    after (exec .strreset { State.reset with sb := [0, 1, 2], sstate := .terminated }) (fun t => (t.sb, t.sstate, t.result0)) =
      some ([], .opened, 3#32) := by decide

/-! ## The host port -/

/-- 20_memory.md R83: a 32-bit write of 0x000103C3 at window offset 0 sets BUF[0..3] = C3 03 01 00. -/
theorem test_window_write :
    after (State.reset.hostWrite 0x10000 (.d32 0x000103C3)) (·.buf) = some [(0, 0xC3), (1, 0x03), (2, 0x01), (3, 0x00)] := by
  decide
theorem test_window_read_unwritten : faults (State.reset.hostRead .w8 0x10000) .unwrittenRead = true := by decide
theorem test_id_reads : after (State.reset.hostRead .w32 0x000) (·.hostReads) = some [.d32 0x50434231#32] := by decide
theorem test_cmd_write_issues :
    after (State.reset.hostWrite 0x00C (.d32 0x12)) (fun t => (t.busy, t.pending)) = some (true, 0x12#32) := by decide
theorem test_cmd_write_while_busy : after (busyState.hostWrite 0x00C (.d32 0)) (·.overrun) = some true := by decide
theorem test_src_write_while_busy : faults (busyState.hostWrite 0x010 (.d32 0)) .busyWrite = true := by decide
theorem test_result_read_while_busy : faults (busyState.hostRead .w32 0x024) .busyRead = true := by decide
theorem test_status_write_clears_one :
    after ({ State.reset with errAcc := true, csumWarn := true, overrun := true }.hostWrite 0x008 (.d32 0x8))
      (fun t => (t.errAcc, t.csumWarn, t.overrun)) = some (false, true, true) := by decide
/-- 30_encoding.md R137, R138: DO writes only the operands given, then issues and waits. -/
theorem test_macro_DO :
    macroDO 0x40000 .hdrsize (some 5) none none none none =
      [.write 0x40010 (.d32 5), .write 0x4000C (.d32 0x01), .wait] := by decide
/-- 10_state.md R32: the block's registers stand at PCB_BASE; 20_memory.md R94: what lies below is the platform's. -/
theorem test_base :
    after (step { State.resetWith { defaultParams with pcbBase := 0x40000 } with hostQueue := [.write 0x40010 (.d32 7)] })
      (·.src) = some 7#32 ∧
    refuses (step { State.resetWith { defaultParams with pcbBase := 0x40000 } with hostQueue := [.write 0x10 (.d32 7)] })
      .outsidePcb = true := by decide
/-- 92_eei_decisions.md D4: a 64-bit access is refused. -/
theorem test_wide_refused :
    refuses (step { State.reset with hostQueue := [.otherWidth 0x10000 8] }) .badAccess = true := by decide
theorem test_misaligned_refused : refuses (State.reset.hostRead .w16 0x10001) .badAccess = true := by decide
theorem test_outside_refused : refuses (State.reset.hostRead .w8 0x30000) .outsidePcb = true := by decide
theorem test_reset_abandons :
    after (step { busyState with hostQueue := [.reset] }) (fun t => (t.busy, t.errAcc)) = some (false, false) := by decide
theorem test_default_keys_match :
    (∀ i : Fin 4, (mulWord ksS2cEnc i).toNat * (mulWord ksS2cDec i).toNat % (modWord ksS2cEnc i).toNat = 1) ∧
    (∀ i : Fin 4, (mulWord ksC2sEnc i).toNat * (mulWord ksC2sDec i).toNat % (modWord ksC2sEnc i).toNat = 1) := by decide

/-! ## Witnesses: for each statement with hypotheses, states and operands that meet them, for each clause at a boundary of
its range. The statement's name follows `witness_`. -/

/-- A next state exists, and a field of it has this value. -/
theorem next_of_after {α : Type} {o : Host.Outcome State Fault Refusal} {f : State → α} {v : α} (h : after o f = some v) :
    ∃ t, o = .next t ∧ f t = v := by
  cases o with
  | next t => exact ⟨t, rfl, Option.some.inj h⟩
  | fault _ => cases h
  | refused _ => cases h

/-- Bytes that read back stand in the buffer. -/
theorem holdsAt_of_reads {m : Memory} {a : Nat} {bs : List Byte} (h : ∀ j : Fin bs.length, m.read (a + j.val) = some bs[j]) :
    holdsAt m a bs := by
  intro j b hb
  obtain ⟨hj, rfl⟩ := List.getElem?_eq_some_iff.mp hb
  exact h ⟨j, hj⟩

/-- No command: the decoder answered with a reason. -/
theorem no_command {w : Word} {r : IllegalWord} (h : decode w = .illegal r) : ∀ i, decode w ≠ .command i := by
  intro i hi
  rw [h] at hi
  cases hi

/-- A PCB with BUF_SIZE = n at PCB_BASE = 0x40000, the bytes bs standing from address 0. -/
def tiny (n : Nat) (bs : List Byte) : State :=
  { State.resetWith { defaultParams with pcbBase := 0x40000, bufSize := n } with buf := Memory.writeBytes [] 0 bs }

/-- The key set with a zero modulus word K[j]. -/
def zeroedKey (j : Fin 12) : KeySet := ksS2cEnc.set j.val 0

/-- 95_test_vectors.md section 9, B1: an encrypted block of two bytes, whose key set is KS_S2C_DEC. -/
def blockB1 : List Byte := [0x7B, 0xC3, 0x34, 0x66, 0x9E, 0xF5, 0x77, 0xAA, 0x69, 0xC6, 0xF9]

/-- 95_test_vectors.md section 9, B9: the same block with one bit of its ciphertext changed; its checksum does not match. -/
def blockBad : List Byte := [0x7B, 0xC3, 0x34, 0x66, 0x9E, 0xF5, 0x77, 0xA2, 0x69, 0xC6, 0xF9]

/-- 95_test_vectors.md section 4.4, X8: a block whose checksum does not match, and whose counter byte is not 0. -/
def blockX8 : List Byte := [0x7A, 0xC3, 0x34, 0x66, 0x9E, 0xF5, 0x77, 0xAA, 0x69, 0xC6, 0xF9]

/-- A PCB with BUF_SIZE = n that decrypts with KS_S2C_DEC. -/
def peer (n : Nat) (bs : List Byte) : State := { tiny n bs with dkey := ksS2cDec }

theorem witness_LegalWordsDecodeAndOthersRaiseIllegalCmd :
    (∃ s : State, ∀ i, decode s.pending ≠ .command i) ∧
    (∃ w i, decode w = .command i ∧ w.getLsbD 8 = true) := by
  refine ⟨⟨busyState.withPending 0x06, no_command (r := .reservedOp) ?_⟩, 0x120, .ctrinc .dctr, ?_, ?_⟩ <;> decide

theorem witness_StepRunsThePendingCommandOrTheNextHostEvent :
    (∃ s : State, s.busy = true ∧ s.delay = 0 ∧ s.hostQueue ≠ [] ∧ decode s.pending = .command .nop) ∧
    (∃ s : State, s.busy = true ∧ s.delay ≠ 0 ∧ s.hostQueue = [] ∧ decode s.pending = .command .nop) ∧
    (∃ s : State, s.busy = true ∧ s.delay = 0 ∧ ∀ i, decode s.pending ≠ .command i) ∧
    (∃ s : State, s.hostQueue = [.wait] ∧ s.busy = true ∧ s.delay = 0 + 1) ∧
    (∃ s : State, s.hostQueue = [.wait] ∧ s.busy = false) ∧
    (∃ s : State, s.hostQueue = [] ∧ s.busy = false) := by
  refine ⟨⟨{ busyState with delay := 0, hostQueue := [.wait] }, ?_⟩, ⟨busyState, ?_⟩,
    ⟨State.reset.withPending 0x06, ?_, ?_, no_command (r := .reservedOp) ?_⟩,
    ⟨{ busyState with delay := 1, hostQueue := [.wait] }, ?_⟩, ⟨{ State.reset with hostQueue := [.wait] }, ?_⟩,
    ⟨State.reset, ?_⟩⟩ <;> decide

theorem witness_WaitLeadsToTheEngineStep :
    ∃ s : State, s.busy = true ∧ s.hostQueue = [.wait] ∧ s.delay = 5 :=
  ⟨{ busyState with hostQueue := [.wait] }, by decide⟩

theorem witness_ResetValuesOfAllState :
    (∃ p : Params, p.keyRole = .server) ∧ (∃ p : Params, p.keyRole = .client) :=
  ⟨⟨defaultParams, by decide⟩, ⟨{ defaultParams with keyRole := .client }, by decide⟩⟩

theorem witness_PlatformResetAbandonsThePendingCommand :
    (∃ s : State, s.hostQueue = [.reset] ∧ s.busy = false) ∧
    (∃ s : State, s.hostQueue = [.reset] ∧ s.busy = true ∧ s.delay = 1) :=
  ⟨⟨{ State.reset with hostQueue := [.reset] }, by decide⟩, ⟨{ busyState with delay := 1, hostQueue := [.reset] }, by decide⟩⟩

theorem witness_EveryStepKeepsTheInvariant :
    ∃ s t : State, Inv s ∧ step s = .next t ∧ t.buf = [(0, 7#8)] := by
  refine ⟨{ State.reset with hostQueue := [.write 0x10000 (.d8 7)] }, ?_⟩
  obtain ⟨t, h⟩ := next_of_after (o := step { State.reset with hostQueue := [.write 0x10000 (.d8 7)] }) (f := (·.buf))
    (v := [(0, 7#8)]) (by decide)
  refine ⟨t, ?_, h⟩
  constructor <;> simp [State.reset, State.resetWith, Memory.wf, Memory.risesFrom]

/-- A success; an error that writes nothing else; one that terminates the stream; one that sets CSUM_WARN. -/
theorem witness_EndedCommandsClearBusyAndErrorsArePrecise :
    (∃ t, exec .nop State.reset = .next t ∧ t.err = false) ∧
    (∃ t, exec .strfeed { State.reset with sstate := .closed } = .next t ∧ t.errCode = .streamState) ∧
    (∃ t, exec .strnext { State.reset with sb := [0xC1, 0, 0] } = .next t ∧
      (t.errCode, t.sstate) = (.invalidHeaderMarker, .terminated)) ∧
    (∃ t, exec .smdecf { peer 32 ([0xC3, 0x0D] ++ blockX8) with acceptBadCsum := true } = .next t ∧
      (t.errCode, t.csumWarn) = (.counterMismatch, true)) := by
  refine ⟨next_of_after ?_, next_of_after ?_, next_of_after ?_, next_of_after ?_⟩ <;> decide

/-- Each error code is raised by a command. -/
theorem witness_ErrorCodesAndWhoRaisesThem :
    (∃ t, exec .wrhdr State.reset = .next t ∧ (t.err, t.errCode) = (true, .invalidHeaderMarker)) ∧
    (∃ t, exec .smdecb { peer 32 blockBad with dst := 16 } = .next t ∧ (t.err, t.errCode) = (true, .invalidBlockChecksum)) ∧
    (∃ t, exec .smdecf { peer 32 ([0xC3, 0x0D] ++ blockB1) with dctr := { count := 9, min := 0, max := 9 } } = .next t ∧
      (t.err, t.errCode) = (true, .counterMismatch)) ∧
    (∃ t, exec .pkttype (tiny 2 [0xC1, 1]) = .next t ∧ (t.err, t.errCode) = (true, .invalidLength)) ∧
    (∃ t, exec .encsize (tiny 2 [0xC3, 255]) = .next t ∧ (t.err, t.errCode) = (true, .lengthOverflow)) ∧
    (∃ t, exec .smencb State.reset = .next t ∧ (t.err, t.errCode) = (true, .blockSize)) ∧
    (∃ t, exec .hdrsize (tiny 0 []) = .next t ∧ (t.err, t.errCode) = (true, .bufRange)) ∧
    (∃ t, exec .smencb { tiny 16 [] with len := 1, ekey := zeroedKey 3 } = .next t ∧ (t.err, t.errCode) = (true, .keyInvalid)) ∧
    (∃ t, exec .strnext { State.reset with sstate := .terminated } = .next t ∧ (t.err, t.errCode) = (true, .streamState)) ∧
    (∃ t, exec .strfeed { State.reset with params := { defaultParams with streamCap := 0 }, len := 1 } = .next t ∧
      (t.err, t.errCode) = (true, .streamOverflow)) := by
  refine ⟨next_of_after ?_, next_of_after ?_, next_of_after ?_, next_of_after ?_, next_of_after ?_, next_of_after ?_,
    next_of_after ?_, next_of_after ?_, next_of_after ?_, next_of_after ?_⟩ <;> decide

theorem witness_CommandsLeaveOperandsAndKeysAlone :
    (∃ t, exec .nop State.reset = .next t ∧ t.done = true) ∧ (∃ t, exec .strclose State.reset = .next t ∧ t.done = true) :=
  ⟨next_of_after (by decide), next_of_after (by decide)⟩

/-- SMENCF and SMDECF succeed on encrypted frames. -/
theorem witness_CountersAdvanceOnlyOnSuccess :
    (∃ t, exec .smencf { tiny 32 [0xC3, 0x02] with dst := 4 } = .next t ∧ (t.err, t.ectr.count) = (false, 1)) ∧
    (∃ m, (tiny 32 [0xC3, 0x02]).buf.read 0 = some m ∧ m = 0xC3#8) ∧
    (∃ t, exec .smdecf (peer 32 ([0xC3, 0x0D] ++ blockB1)) = .next t ∧ (t.err, t.dctr.count) = (false, 1)) ∧
    (∃ m, (peer 32 ([0xC3, 0x0D] ++ blockB1)).buf.read 0 = some m ∧ m = 0xC3#8) ∧
    (∃ t, exec .smdecf (peer 32 ([0xC3, 0x0D] ++ blockBad)) = .next t ∧ t.err = true) := by
  refine ⟨next_of_after ?_, ⟨_, ?_, rfl⟩, next_of_after ?_, ⟨_, ?_, rfl⟩, next_of_after ?_⟩ <;> decide

theorem witness_CommandsThatStoreNothingLeaveTheBuffer :
    (∃ t, exec .hdrsize (tiny 1 [0xC1]) = .next t ∧ t.err = false) ∧ (∃ t, exec .hdrsize (tiny 0 []) = .next t ∧ t.err = true) :=
  ⟨next_of_after (by decide), next_of_after (by decide)⟩

/-- Every storing command succeeds. -/
theorem witness_StoringCommandsChangeOnlyTheirRegion :
    (∃ t, exec .wrhdr { tiny 2 [] with arg0 := 0xC1, len := 255 } = .next t ∧ t.err = false) ∧
    (∃ t, exec .shift { tiny 1 [1] with len := 1 } = .next t ∧ t.err = false) ∧
    (∃ t, exec .shift { tiny 0 [] with len := 0 } = .next t ∧ t.err = false) ∧
    (∃ t, exec .smencb { tiny 11 [1] with len := 1 } = .next t ∧ t.err = false) ∧
    (∃ t, exec .smdecb (peer 11 blockB1) = .next t ∧ t.err = false) ∧
    (∃ t, exec .smencf (tiny 13 [0xC3, 0x02]) = .next t ∧ t.err = false) ∧
    (∃ t, exec .smdecf (peer 13 ([0xC3, 0x0D] ++ blockB1)) = .next t ∧ t.err = false) ∧
    (∃ t, exec .xorenc (tiny 3 [0xC1, 0x03, 5]) = .next t ∧ t.err = false) ∧
    (∃ t, exec .xordec (tiny 3 [0xC1, 0x03, 5]) = .next t ∧ t.err = false) ∧
    (∃ t, exec .strnext { tiny 3 [] with sb := [0xC1, 0x03, 5] } = .next t ∧ t.err = false) := by
  refine ⟨next_of_after ?_, next_of_after ?_, next_of_after ?_, next_of_after ?_, next_of_after ?_, next_of_after ?_,
    next_of_after ?_, next_of_after ?_, next_of_after ?_, next_of_after ?_⟩ <;> decide

theorem witness_StreamStateTransitions :
    (∃ t, exec .strclose State.reset = .next t ∧ t.sstate = .closed) ∧
    (∃ t, exec .strnext { State.reset with sb := [0xC1, 0, 0] } = .next t ∧
      (t.err, t.errCode) = (true, .invalidHeaderMarker)) ∧
    (∃ t, exec .strnext { State.reset with sstate := .closed, sb := [0xC1, 1, 0] } = .next t ∧
      (t.err, t.errCode) = (true, .invalidLength)) ∧
    (∃ t, exec .strreset { State.reset with sstate := .terminated } = .next t ∧ t.sstate = .opened) ∧
    (∃ t, busyState.hostEvent .reset = .next t ∧ t.sstate = .opened) ∧
    (∃ t, State.reset.hostEvent (.read .w32 0) = .next t ∧ t.sstate = .opened) := by
  refine ⟨next_of_after ?_, next_of_after ?_, next_of_after ?_, next_of_after ?_, next_of_after ?_, next_of_after ?_⟩ <;>
    decide

theorem witness_RegisterMapAndUnmappedOffsets :
    (0x02C < 0x10000 ∧ 0x02C % 4 = 0 ∧ regAt 0x02C = none) ∧ (0x1A0 < 0x10000 ∧ 0x1A0 % 4 = 0 ∧ regAt 0x1A0 = none) ∧
    (0xFFFC < 0x10000 ∧ 0xFFFC % 4 = 0 ∧ regAt 0xFFFC = none) ∧ regAt 0x19C = some (.xkeyw 7) := by decide

theorem witness_RegisterWritesAndReadsBack : State.reset.busy = false := by decide
theorem witness_StatusWriteClearsStickyBits :
    (0x38#32).getLsbD 3 = true ∧ (0x38#32).getLsbD 4 = true ∧ (0x38#32).getLsbD 5 = true ∧ (0xC7#32).getLsbD 3 = false := by
  decide
theorem witness_CmdWriteIsAcceptedOrDropped : State.reset.busy = false ∧ busyState.busy = true := by decide

/-- The last access of each width in the window of four bytes. -/
theorem witness_WindowAccessesAreLittleEndian :
    ∃ s : State, s.busy = false ∧ 3 + 1 ≤ s.params.bufSize ∧ (2 % 2 = 0 ∧ 2 + 2 ≤ s.params.bufSize) ∧
      (0 % 4 = 0 ∧ 0 + 4 ≤ s.params.bufSize) ∧ holdsAt s.buf 3 [4] ∧ holdsAt s.buf 2 [3, 4] ∧ holdsAt s.buf 0 [1, 2, 3, 4] :=
  ⟨tiny 4 [1, 2, 3, 4], by decide, by decide, by decide, by decide, holdsAt_of_reads (by decide), holdsAt_of_reads (by decide),
    holdsAt_of_reads (by decide)⟩

/-- Each width, at the end of a window whose last byte is unwritten. -/
theorem witness_WindowAccessesAreLittleEndian_unwritten :
    ∀ w : Width, ∃ (s : State) (a : Nat), s.busy = false ∧ a % w.bytes = 0 ∧ a + w.bytes = s.params.bufSize ∧
      unwrittenIn s.buf a w.bytes := by
  intro w
  refine ⟨tiny 4 [1, 2, 3], 4 - w.bytes, ?_⟩
  cases w
  · exact ⟨by decide, by decide, by decide, 0, by decide⟩
  · exact ⟨by decide, by decide, by decide, 1, by decide⟩
  · exact ⟨by decide, by decide, by decide, 3, by decide⟩

theorem witness_MisalignedAndOutsideAccessesAreRefused :
    (∃ (s : State) (w : Width) (off : Nat), off < 0x10000 ∧ w ≠ .w32 ∧ off % 4 = 0 ∧
      off + w.bytes ≤ 0x10000 + s.params.bufSize) ∧
    (∃ (s : State) (d : BusData) (off : Nat), off < 0x10000 ∧ d.width = .w32 ∧ off % 4 ≠ 0 ∧
      off + d.width.bytes ≤ 0x10000 + s.params.bufSize) ∧
    (∃ (s : State) (d : BusData) (off : Nat), 0x10000 ≤ off ∧ off % d.width.bytes ≠ 0 ∧
      off + d.width.bytes = 0x10000 + s.params.bufSize) ∧
    (∃ (s : State) (w : Width) (off : Nat), 0x10000 ≤ off ∧ off % w.bytes ≠ 0 ∧
      off + w.bytes = 0x10000 + s.params.bufSize) ∧
    (∃ (s : State) (w : Width) (off : Nat), 0x10000 + s.params.bufSize < off + w.bytes ∧ off < 0x10000 + s.params.bufSize) ∧
    (∃ (s : State) (d : BusData) (off : Nat), 0x10000 + s.params.bufSize < off + d.width.bytes ∧
      off = 0x10000 + s.params.bufSize) ∧
    (∃ (s : State) (addr : Nat), addr + 1 = s.params.pcbBase) ∧
    (∃ (s : State) (n off : Nat), n = 8 ∧ off + n = 0x10000 + s.params.bufSize) ∧
    (∃ (s : State) (n off : Nat), n = 8 ∧ off + n = 0x10000 + s.params.bufSize + 1) :=
  ⟨⟨tiny 4 [], .w16, 0xFFFC, by decide⟩, ⟨tiny 4 [], .d32 0, 0x3, by decide⟩, ⟨tiny 3 [], .d16 0, 0x10001, by decide⟩,
    ⟨tiny 6 [], .w32, 0x10002, by decide⟩, ⟨tiny 2 [], .w32, 0x10000, by decide⟩, ⟨tiny 2 [], .d8 0, 0x10002, by decide⟩,
    ⟨tiny 8 [], 0x3FFFF, by decide⟩, ⟨tiny 8 [], 8, 0x10000, by decide⟩, ⟨tiny 8 [], 8, 0x10001, by decide⟩⟩

theorem witness_WritesWhileBusyAreFaults :
    ∃ (s : State) (a : Nat) (d : BusData), s.busy = true ∧ a % d.width.bytes = 0 ∧ a + d.width.bytes = s.params.bufSize :=
  ⟨(tiny 4 []).withPending 0, 2, .d16 0, by decide⟩

theorem witness_ReadsWhileBusy :
    ∃ (s : State) (a : Nat) (w : Width), s.busy = true ∧ a % w.bytes = 0 ∧ a + w.bytes = s.params.bufSize ∧
      Reg.ectrMin ∉ [Reg.result0, .result1, .streamLevel, .ectrCount, .dctrCount, .status] :=
  ⟨(tiny 4 []).withPending 0, 0, .w32, by decide⟩

theorem witness_ReadsHaveNoSideEffect :
    (∃ t, State.reset.hostRead .w32 0x008 = .next t ∧ t.draws = 0) ∧
    (∃ t, busyState.hostRead .w32 0x008 = .next t ∧ t.draws = 1) ∧
    (∃ t, (tiny 1 [7]).hostRead .w8 0x10000 = .next t ∧ t.hostReads = [.d8 7]) := by
  refine ⟨next_of_after ?_, next_of_after ?_, next_of_after ?_⟩ <;> decide

theorem witness_NopChangesOnlyStatus :
    (∃ s : State, s.pending.extractLsb' 0 8 = 0#8 ∧ s.pending.extractLsb' 8 24 = 1#24) ∧
    (∃ s : State, s.pending.extractLsb' 0 8 = 0#8 ∧ s.pending.extractLsb' 8 24 = 0x800000#24) :=
  ⟨⟨busyState.withPending 0x100, by decide⟩, ⟨busyState.withPending 0x80000000, by decide⟩⟩

theorem witness_HeaderSizeAndDeclaredLength :
    headerSize 0xC0 = 0 ∧ headerSize 0xC1 = 2 ∧ headerSize 0xC4 = 3 ∧ headerSize 0xC5 = 0 := by decide

theorem witness_HdrsizeGivesHeaderSizeAndMarker :
    (∃ s : State, s.params.bufSize < s.src.toNat + 1) ∧
    (∃ s : State, s.src.toNat + 1 ≤ s.params.bufSize ∧ s.buf.read s.src.toNat = none) ∧
    (∃ s : State, s.src.toNat + 1 ≤ s.params.bufSize ∧ s.buf.read s.src.toNat = some 0xC4) :=
  ⟨⟨{ tiny 1 [0xC4] with src := 1 }, by decide⟩, ⟨tiny 1 [], by decide⟩, ⟨tiny 1 [0xC4], by decide⟩⟩

theorem witness_DeclenGivesDeclaredLength :
    (∃ s : State, s.params.bufSize < s.src.toNat + 3) ∧
    (∃ s : State, s.src.toNat + 3 ≤ s.params.bufSize ∧ unwrittenIn s.buf s.src.toNat 3) ∧
    (∃ s : State, s.src.toNat + 3 ≤ s.params.bufSize ∧ holdsAt s.buf s.src.toNat [0xC2, 255, 255]) :=
  ⟨⟨tiny 2 [0xC1, 2], by decide⟩, ⟨tiny 3 [0xC1, 2], by decide, 2, by decide⟩,
    ⟨tiny 3 [0xC2, 255, 255], by decide, holdsAt_of_reads (by decide)⟩⟩

theorem witness_FramePrologueChecksInOrder :
    (tiny 4 []).params.bufSize < 4 + 1 ∧
    (3 + 1 ≤ (tiny 4 []).params.bufSize ∧ (tiny 4 []).buf.read 3 = none) ∧
    (0 + 1 ≤ (tiny 1 [0xC5]).params.bufSize ∧ (tiny 1 [0xC5]).buf.read 0 = some 0xC5 ∧ headerSize 0xC5 = 0) ∧
    (headerSize 0xC2 ≠ 0 ∧ (tiny 2 [0xC2, 0]).params.bufSize < 0 + headerSize 0xC2) ∧
    (headerSize 0xC1 ≠ 0 ∧ 0 + headerSize 0xC1 ≤ (tiny 2 [0xC1]).params.bufSize ∧
      ∃ j, j < headerSize 0xC1 ∧ (tiny 2 [0xC1]).buf.read (0 + j) = none) ∧
    ((tiny 2 [0xC1, 0]).buf.read (0 + 1) = some 0 ∧ declaredLength 0xC1 0 0 = 0) ∧
    (declaredLength 0xC2 0 2 ≠ 0 ∧ declaredLength 0xC2 0 2 < headerSize 0xC2) ∧
    (headerSize 0xC1 ≤ declaredLength 0xC1 3 0 ∧ (tiny 2 [0xC1, 3]).params.bufSize < 0 + declaredLength 0xC1 3 0) ∧
    (headerSize 0xC1 ≤ declaredLength 0xC1 2 0 ∧ 0 + declaredLength 0xC1 2 0 ≤ (tiny 2 [0xC1, 2]).params.bufSize) := by decide

/-- FramePrologue's errors and its fault, for PKTTYPE, PKTSUB, ENCSIZE, DECSIZE (without `full`) and for SMENCF, SMDECF,
XORENC, XORDEC (with `full`). -/
theorem witness_framePrologue_stops :
    (tiny 2 [0xC1, 0]).framePrologue 0 false = .err .invalidHeaderMarker .nothing ∧
    (tiny 2 [0xC1]).framePrologue 0 false = .fault .unwrittenRead ∧
    (tiny 2 [0xC1, 3]).framePrologue 0 true = .err .bufRange .nothing ∧
    (tiny 2 []).framePrologue 0 true = .fault .unwrittenRead := by decide

theorem witness_PkttypeAndPktsubGivePayloadBytes :
    (tiny 2 [0xC1, 0]).framePrologue 0 false = .err .invalidHeaderMarker .nothing ∧
    (tiny 2 [0xC1, 2]).framePrologue 0 false = .ok { m := 0xC1, h := 2, len := 2 } ∧
    ((tiny 2 [0xC1, 4]).framePrologue 0 false = .ok { m := 0xC1, h := 2, len := 4 } ∧ 2 + 2 ≤ 4 ∧
      (tiny 2 [0xC1, 4]).params.bufSize < 0 + (2 + 1)) ∧
    ((tiny 4 [0xC1, 4]).framePrologue 0 false = .ok { m := 0xC1, h := 2, len := 4 } ∧
      0 + (2 + 2) ≤ (tiny 4 [0xC1, 4]).params.bufSize ∧ (tiny 4 [0xC1, 4]).buf.read (0 + 2) = none ∧
      (tiny 4 [0xC1, 4]).buf.read (0 + 2 + 1) = none) ∧
    ((tiny 4 [0xC1, 4, 0xF3, 0x10]).framePrologue 0 false = .ok { m := 0xC1, h := 2, len := 4 } ∧
      (tiny 4 [0xC1, 4, 0xF3, 0x10]).buf.read (0 + 2) = some 0xF3 ∧
      (tiny 4 [0xC1, 4, 0xF3, 0x10]).buf.read (0 + 2 + 1) = some 0x10) := by decide

theorem witness_WrhdrWritesTheHeader :
    headerSize 0xC0 = 0 ∧ (headerSize 0xC1 = 2 ∧ 255 < 256) ∧ (headerSize 0xC2 = 3 ∧ 65535 < 65536) ∧
    (headerSize 0xC3 = 2 ∧ 1 ≤ 255 ∧ (tiny 1 []).params.bufSize < (tiny 1 []).dst.toNat + 2) ∧
    (headerSize 0xC4 = 3 ∧ 1 ≤ 65535 ∧ (tiny 2 []).params.bufSize < (tiny 2 []).dst.toNat + 3) ∧
    (headerSize 0xC3 = 2 ∧ (tiny 2 []).dst.toNat + 2 ≤ (tiny 2 []).params.bufSize) ∧
    (headerSize 0xC4 = 3 ∧ (tiny 3 []).dst.toNat + 3 ≤ (tiny 3 []).params.bufSize) := by decide

theorem witness_WrhdrThenDeclenGivesTheLengthBack :
    (∃ t, exec .wrhdr { tiny 3 [0, 0, 9] with arg0 := 0xC1, len := 255 } = .next t ∧
      (t.err, t.buf.read (0 + 2)) = (false, some 9)) ∧
    (∃ t, exec .wrhdr { tiny 3 [] with arg0 := 0xC2, len := 65535 } = .next t ∧
      (t.err, t.buf.read (0 + 2)) = (false, some 255)) :=
  ⟨next_of_after (by decide), next_of_after (by decide)⟩

theorem witness_EncsizeAndDecsizeGiveFrameSizes :
    (tiny 1 [0xC0]).framePrologue 0 false = .err .invalidHeaderMarker .nothing ∧
    (tiny 2 [0xC1, 255]).framePrologue 0 false = .ok { m := 0xC1, h := 2, len := 255 } ∧
    ((tiny 2 [0xC3, 186]).framePrologue 0 false = .ok { m := 0xC3, h := 2, len := 186 } ∧ 255 < 2 + 11 * ((186 - 2 + 1 + 7) / 8)) ∧
    ((tiny 2 [0xC3, 185]).framePrologue 0 false = .ok { m := 0xC3, h := 2, len := 185 } ∧
      2 + 11 * ((185 - 2 + 1 + 7) / 8) ≤ 255) ∧
    ((tiny 2 [0xC3, 2]).framePrologue 0 false = .ok { m := 0xC3, h := 2, len := 2 }) ∧
    ((tiny 2 [0xC3, 12]).framePrologue 0 false = .ok { m := 0xC3, h := 2, len := 12 } ∧ (12 - 2) % 11 ≠ 0) ∧
    ((tiny 2 [0xC3, 13]).framePrologue 0 false = .ok { m := 0xC3, h := 2, len := 13 } ∧ 13 - 2 = 11 * 1) := by decide

theorem witness_ShiftBytesMergesEachBit : 7 + 9 ≤ 8 * ([0, 0] : List Byte).length := by decide

theorem witness_ShiftCopiesBits :
    (∃ s : State, s.len.toNat = 0) ∧
    (∃ s : State, 0 < s.len.toNat ∧ s.params.bufSize < s.src.toNat + ((s.arg0.toNat + s.len.toNat - 1) / 8 + 1)) ∧
    (∃ s : State, 0 < s.len.toNat ∧ s.src.toNat + ((s.arg0.toNat + s.len.toNat - 1) / 8 + 1) ≤ s.params.bufSize ∧
      s.params.bufSize < s.dst.toNat + ((s.arg1.toNat + s.len.toNat - 1) / 8 + 1)) ∧
    (∃ s : State, 0 < s.len.toNat ∧ s.src.toNat + ((s.arg0.toNat + s.len.toNat - 1) / 8 + 1) ≤ s.params.bufSize ∧
      s.dst.toNat + ((s.arg1.toNat + s.len.toNat - 1) / 8 + 1) ≤ s.params.bufSize ∧ unwrittenIn s.buf s.dst.toNat 2) ∧
    (∃ s : State, 0 < s.len.toNat ∧ s.src.toNat + ((s.arg0.toNat + s.len.toNat - 1) / 8 + 1) ≤ s.params.bufSize ∧
      s.dst.toNat + ((s.arg1.toNat + s.len.toNat - 1) / 8 + 1) ≤ s.params.bufSize ∧ holdsAt s.buf s.src.toNat [1] ∧
      holdsAt s.buf s.dst.toNat [2, 3] ∧ (s.arg1.toNat + s.len.toNat - 1) / 8 + 1 = 2) :=
  ⟨⟨State.reset, by decide⟩, ⟨{ tiny 1 [1] with len := 9 }, by decide⟩, ⟨{ tiny 1 [1] with len := 8, arg1 := 1 }, by decide⟩,
    ⟨{ tiny 2 [1] with len := 8, arg1 := 1 }, by decide, by decide, by decide, 1, by decide⟩,
    ⟨{ tiny 3 [1, 2, 3] with len := 8, arg1 := 1, dst := 1 }, by decide, by decide, by decide, holdsAt_of_reads (by decide),
      holdsAt_of_reads (by decide), by decide⟩⟩

theorem witness_BlockFunctionsStepByStep :
    ¬ zeroModulus ksS2cEnc ∧ ([1, 2, 3, 4, 5, 6, 7, 8] : List Byte).length = 8 ∧ ([] : List Byte).length ≤ 8 := by
  unfold zeroModulus
  decide

theorem witness_PackPlacesEveryBit : ([1, 2, 3, 4] : List Word)[3]? = some 4 := by decide

theorem witness_UnpackInvertsPack :
    [(unpackRing blockB1).w0, (unpackRing blockB1).w1, (unpackRing blockB1).w2, (unpackRing blockB1).w3][3]? =
      some (unpackRing blockB1).w3 := by decide

theorem witness_MatchingKeysRoundTripEveryBlock :
    matchingKeys ksS2cEnc ksS2cDec ∧ matchingKeys ksC2sEnc ksC2sDec ∧ 1 ≤ ([7] : List Byte).length ∧
    ([1, 2, 3, 4, 5, 6, 7, 8] : List Byte).length ≤ 8 := by
  unfold matchingKeys
  decide

theorem witness_SmencbEncryptsOneBlock :
    (State.reset.len.toNat = 0 ∧ 8 < (9#32).toNat) ∧
    (∃ s : State, s.len.toNat = 8 ∧ s.params.bufSize < s.src.toNat + 8) ∧
    (∃ s : State, s.len.toNat = 8 ∧ s.src.toNat + 8 ≤ s.params.bufSize ∧ s.params.bufSize < s.dst.toNat + 11) ∧
    (∃ s : State, s.len.toNat = 1 ∧ s.src.toNat + 1 ≤ s.params.bufSize ∧ s.dst.toNat + 11 ≤ s.params.bufSize ∧
      zeroModulus s.ekey) ∧
    (∃ s : State, s.len.toNat = 1 ∧ s.src.toNat + 1 ≤ s.params.bufSize ∧ s.dst.toNat + 11 ≤ s.params.bufSize ∧
      ¬ zeroModulus s.ekey ∧ unwrittenIn s.buf s.src.toNat 1) ∧
    (∃ s : State, s.len.toNat = 8 ∧ s.src.toNat + 8 ≤ s.params.bufSize ∧ s.dst.toNat + 11 ≤ s.params.bufSize ∧
      ¬ zeroModulus s.ekey ∧ holdsAt s.buf s.src.toNat [1, 2, 3, 4, 5, 6, 7, 8]) :=
  ⟨by decide, ⟨{ tiny 7 [] with len := 8 }, by decide⟩, ⟨{ tiny 10 [] with len := 8 }, by decide⟩,
    ⟨{ tiny 11 [] with len := 1, ekey := zeroedKey 0 }, by unfold zeroModulus; decide⟩,
    ⟨{ tiny 11 [] with len := 1 }, by decide, by decide, by decide, by unfold zeroModulus; decide, 0, by decide⟩,
    ⟨{ tiny 11 [1, 2, 3, 4, 5, 6, 7, 8] with len := 8 }, by decide, by decide, by decide, by unfold zeroModulus; decide,
      holdsAt_of_reads (by decide)⟩⟩

/-- The blocks B1, B1 with a changed checksum byte, and X8. -/
theorem witness_SmdecbDecryptsOneBlock :
    (tiny 10 []).params.bufSize < (tiny 10 []).src.toNat + 11 ∧
    (∃ s : State, s.src.toNat + 11 ≤ s.params.bufSize ∧ s.params.bufSize < s.dst.toNat + 8) ∧
    (∃ s : State, s.src.toNat + 11 ≤ s.params.bufSize ∧ s.dst.toNat + 8 ≤ s.params.bufSize ∧ zeroModulus s.dkey) ∧
    (∃ s : State, s.src.toNat + 11 ≤ s.params.bufSize ∧ s.dst.toNat + 8 ≤ s.params.bufSize ∧ ¬ zeroModulus s.dkey ∧
      unwrittenIn s.buf s.src.toNat 11) ∧
    (∃ s : State, s.src.toNat + 11 ≤ s.params.bufSize ∧ s.dst.toNat + 8 ≤ s.params.bufSize ∧ ¬ zeroModulus s.dkey ∧
      holdsAt s.buf s.src.toNat blockB1) ∧
    blockAccepted false (decodeBlock .desc ksS2cDec blockB1) ∧ (decodeBlock .desc ksS2cDec blockBad).ok = false ∧
    8 < (decodeBlock .desc ksS2cDec (blockB1.set 9 0)).n := by
  refine ⟨by decide, ⟨{ peer 11 blockB1 with dst := 4 }, by decide⟩,
    ⟨{ peer 11 blockB1 with dkey := zeroedKey 1 }, by unfold zeroModulus; decide⟩,
    ⟨peer 11 [1], by decide, by decide, by unfold zeroModulus; decide, 10, by decide⟩,
    ⟨peer 11 blockB1, by decide, by decide, by unfold zeroModulus; decide, holdsAt_of_reads (by decide)⟩,
    by unfold blockAccepted; decide, by decide, by decide⟩

theorem witness_PlainFramesAreCopied :
    (∃ s : State, s.framePrologue s.src.toNat true = .ok { m := 0xC1, h := 2, len := 3 } ∧ s.params.bufSize < s.dst.toNat + 3) ∧
    (∃ s : State, s.framePrologue s.src.toNat true = .ok { m := 0xC1, h := 2, len := 3 } ∧
      s.dst.toNat + 3 ≤ s.params.bufSize ∧ unwrittenIn s.buf s.src.toNat 3) ∧
    (∃ s : State, s.framePrologue s.src.toNat true = .ok { m := 0xC1, h := 2, len := 3 } ∧
      s.dst.toNat + 3 ≤ s.params.bufSize ∧ holdsAt s.buf s.src.toNat [0xC1, 3, 9]) :=
  ⟨⟨{ tiny 3 [0xC1, 3, 9] with dst := 1 }, by decide⟩, ⟨tiny 3 [0xC1, 3], by decide, by decide, 2, by decide⟩,
    ⟨tiny 3 [0xC1, 3, 9], by decide, by decide, holdsAt_of_reads (by decide)⟩⟩

theorem witness_SmencfEncryptsOneFrame :
    (∃ s : State, s.framePrologue s.src.toNat true = .ok { m := 0xC3, h := 2, len := 2 } ∧ zeroModulus s.ekey) ∧
    (∃ s : State, s.framePrologue s.src.toNat true = .ok { m := 0xC3, h := 2, len := 186 } ∧ ¬ zeroModulus s.ekey ∧
      255 < 2 + 11 * ((186 - 2 + 1 + 7) / 8)) ∧
    (∃ s : State, s.framePrologue s.src.toNat true = .ok { m := 0xC3, h := 2, len := 2 } ∧ ¬ zeroModulus s.ekey ∧
      s.params.bufSize < s.dst.toNat + (2 + 11 * ((2 - 2 + 1 + 7) / 8))) ∧
    (∃ s : State, s.framePrologue s.src.toNat true = .ok { m := 0xC3, h := 2, len := 3 } ∧ ¬ zeroModulus s.ekey ∧
      s.dst.toNat + (2 + 11 * ((3 - 2 + 1 + 7) / 8)) ≤ s.params.bufSize ∧ unwrittenIn s.buf (s.src.toNat + 2) (3 - 2)) ∧
    (∃ s : State, s.framePrologue s.src.toNat true = .ok { m := 0xC3, h := 2, len := 10 } ∧ ¬ zeroModulus s.ekey ∧
      s.dst.toNat + (2 + 11 * ((10 - 2 + 1 + 7) / 8)) ≤ s.params.bufSize ∧
      holdsAt s.buf (s.src.toNat + 2) [1, 2, 3, 4, 5, 6, 7, 8] ∧
      ([[s.ectr.count, 1, 2, 3, 4, 5, 6, 7], [8]] : List (List Byte)).flatten = s.ectr.count :: [1, 2, 3, 4, 5, 6, 7, 8]) :=
  ⟨⟨{ tiny 13 [0xC3, 2] with ekey := zeroedKey 2 }, by unfold zeroModulus; decide⟩,
    ⟨tiny 186 [0xC3, 186], by unfold zeroModulus; decide⟩, ⟨tiny 12 [0xC3, 2], by unfold zeroModulus; decide⟩,
    ⟨tiny 13 [0xC3, 3], by decide, by unfold zeroModulus; decide, by decide, 0, by decide⟩,
    ⟨tiny 24 [0xC3, 10, 1, 2, 3, 4, 5, 6, 7, 8], by decide, by unfold zeroModulus; decide, by decide,
      holdsAt_of_reads (by decide), by decide⟩⟩

/-- The lowest failing block is the second of two: unwritten, of a wrong checksum, of a wrong size. -/
theorem witness_SmdecfReportsTheFirstFailingBlock :
    (∃ s : State, s.framePrologue s.src.toNat true = .ok { m := 0xC3, h := 2, len := 2 } ∧ zeroModulus s.dkey) ∧
    (∃ s : State, s.framePrologue s.src.toNat true = .ok { m := 0xC3, h := 2, len := 2 } ∧ ¬ zeroModulus s.dkey) ∧
    (∃ s : State, s.framePrologue s.src.toNat true = .ok { m := 0xC3, h := 2, len := 12 } ∧ ¬ zeroModulus s.dkey ∧
      (12 - 2) % 11 ≠ 0) ∧
    (∃ s : State, s.framePrologue s.src.toNat true = .ok { m := 0xC3, h := 2, len := 24 } ∧ ¬ zeroModulus s.dkey ∧
      holdsAt s.buf (s.src.toNat + 2) ([blockB1] : List (List Byte)).flatten ∧
      (∀ q ∈ [blockB1].map (decodeBlock s.params.encMixOrder s.dkey), blockAccepted s.acceptBadCsum q) ∧
      unwrittenIn s.buf (s.src.toNat + 2 + 11 * 1) 11) ∧
    (∃ s : State, s.framePrologue s.src.toNat true = .ok { m := 0xC3, h := 2, len := 24 } ∧ ¬ zeroModulus s.dkey ∧
      holdsAt s.buf (s.src.toNat + 2) ([blockB1] : List (List Byte)).flatten ∧
      (∀ q ∈ [blockB1].map (decodeBlock s.params.encMixOrder s.dkey), blockAccepted s.acceptBadCsum q) ∧
      holdsAt s.buf (s.src.toNat + 2 + 11 * 1) blockBad ∧
      (decodeBlock s.params.encMixOrder s.dkey blockBad).ok = false ∧ s.acceptBadCsum = false) ∧
    (∃ s : State, s.framePrologue s.src.toNat true = .ok { m := 0xC3, h := 2, len := 24 } ∧ ¬ zeroModulus s.dkey ∧
      holdsAt s.buf (s.src.toNat + 2) ([blockB1] : List (List Byte)).flatten ∧
      (∀ q ∈ [blockB1].map (decodeBlock s.params.encMixOrder s.dkey), blockAccepted s.acceptBadCsum q) ∧
      holdsAt s.buf (s.src.toNat + 2 + 11 * 1) (blockB1.set 9 0) ∧ s.acceptBadCsum = true ∧
      8 < (decodeBlock s.params.encMixOrder s.dkey (blockB1.set 9 0)).n) := by
  refine ⟨⟨{ peer 24 [0xC3, 2] with dkey := zeroedKey 0 }, by unfold zeroModulus; decide⟩,
    ⟨peer 24 [0xC3, 2], by unfold zeroModulus; decide⟩, ⟨peer 24 [0xC3, 12], by unfold zeroModulus; decide⟩,
    ⟨peer 24 ([0xC3, 24] ++ blockB1), by decide, by unfold zeroModulus; decide, holdsAt_of_reads (by decide),
      by unfold blockAccepted; decide, 0, by decide⟩,
    ⟨peer 24 ([0xC3, 24] ++ blockB1 ++ blockBad), by decide, by unfold zeroModulus; decide, holdsAt_of_reads (by decide),
      by unfold blockAccepted; decide, holdsAt_of_reads (by decide), by decide⟩,
    ⟨{ peer 24 ([0xC3, 24] ++ blockB1 ++ blockB1.set 9 0) with acceptBadCsum := true }, by decide,
      by unfold zeroModulus; decide, holdsAt_of_reads (by decide), by unfold blockAccepted; decide,
      holdsAt_of_reads (by decide), by decide⟩⟩

/-- One block: counter byte 0, payload 1. -/
theorem witness_SmdecfDecryptsOneFrame :
    (∃ s : State, s.framePrologue s.src.toNat true = .ok { m := 0xC3, h := 2, len := 13 } ∧ ¬ zeroModulus s.dkey ∧
      holdsAt s.buf (s.src.toNat + 2) ([blockB1] : List (List Byte)).flatten ∧
      (∀ q ∈ [blockB1].map (decodeBlock s.params.encMixOrder s.dkey), blockAccepted s.acceptBadCsum q) ∧
      contentOf ([blockB1].map (decodeBlock s.params.encMixOrder s.dkey)) = 0 :: [1] ∧ 0#8 = s.dctr.count ∧
      s.dst.toNat + (2 + 1) ≤ s.params.bufSize) ∧
    (∃ s : State, s.params.bufSize < s.dst.toNat + (2 + 1) ∧ 0#8 = s.dctr.count ∧
      s.framePrologue s.src.toNat true = .ok { m := 0xC3, h := 2, len := 13 }) ∧
    (∃ s : State, s.framePrologue s.src.toNat true = .ok { m := 0xC3, h := 2, len := 13 } ∧ 0#8 ≠ s.dctr.count) :=
  ⟨⟨{ peer 13 ([0xC3, 13] ++ blockB1) with dst := 10 }, by decide, by unfold zeroModulus; decide, holdsAt_of_reads (by decide),
      by unfold blockAccepted; decide, by decide, by decide, by decide⟩,
    ⟨{ peer 13 ([0xC3, 13] ++ blockB1) with dst := 11 }, by decide⟩,
    ⟨{ peer 13 ([0xC3, 13] ++ blockB1) with dctr := { count := 1, min := 0, max := 1 } }, by decide⟩⟩

/-- One PCB is its own peer, the ciphertext standing at DST = 8. -/
theorem witness_EncryptedFramesRoundTripBetweenPeers :
    ∃ s t u : State, s.framePrologue s.src.toNat true = .ok { m := 0xC3, h := 2, len := 3 } ∧
      holdsAt s.buf s.src.toNat [0xC3, 3, 1] ∧ exec .smencf s = .next t ∧ t.err = false ∧ matchingKeys s.ekey u.dkey ∧
      u.params.encMixOrder = s.params.encMixOrder ∧ u.dctr.count = s.ectr.count ∧
      (∀ j, j < t.result0.toNat → u.buf.read (u.src.toNat + j) = t.buf.read (s.dst.toNat + j)) ∧
      u.src.toNat + t.result0.toNat ≤ u.params.bufSize ∧ u.dst.toNat + 3 ≤ u.params.bufSize := by
  let s : State := { peer 24 [0xC3, 3, 1] with dst := 8 }
  obtain ⟨t, ht, hf⟩ := next_of_after (o := exec .smencf s) (f := fun t => (t.err, t.result0.toNat, t.dkey, t.params, t.dctr))
    (v := (false, 13, ksS2cDec, s.params, s.dctr)) (by decide)
  obtain ⟨he, hr, hk, hp, hc⟩ : t.err = false ∧ t.result0.toNat = 13 ∧ t.dkey = ksS2cDec ∧ t.params = s.params ∧
      t.dctr = s.dctr := by simpa using hf
  refine ⟨s, t, { t with src := 8, dst := 0 }, by decide, holdsAt_of_reads (by decide), ht, he, ?_, ?_, ?_, fun j _ => rfl, ?_, ?_⟩
  · simp only [hk]
    unfold matchingKeys
    decide
  · simp only [hp]
  · simp only [hc]
    decide
  · simp only [hp, hr]
    decide
  · simp only [hp]
    decide

theorem witness_XorencChainsFromTheFront :
    (∃ s : State, s.framePrologue s.src.toNat true = .err .invalidLength .nothing) ∧
    (∃ s : State, s.framePrologue s.src.toNat true = .ok { m := 0xC1, h := 2, len := 4 } ∧ unwrittenIn s.buf s.src.toNat 4) ∧
    (∃ s : State, s.framePrologue s.src.toNat true = .ok { m := 0xC1, h := 2, len := 4 } ∧
      holdsAt s.buf s.src.toNat [0xC1, 4, 5, 6]) :=
  ⟨⟨tiny 4 [0xC1, 1], by decide⟩, ⟨tiny 4 [0xC1, 4, 5], by decide, 3, by decide⟩,
    ⟨tiny 4 [0xC1, 4, 5, 6], by decide, holdsAt_of_reads (by decide)⟩⟩

theorem witness_XordecChainsFromTheBack :
    (∃ s : State, s.framePrologue s.src.toNat true = .err .bufRange .nothing) ∧
    (∃ s : State, s.framePrologue s.src.toNat true = .ok { m := 0xC2, h := 3, len := 5 } ∧ unwrittenIn s.buf s.src.toNat 5) ∧
    (∃ s : State, s.framePrologue s.src.toNat true = .ok { m := 0xC2, h := 3, len := 5 } ∧
      holdsAt s.buf s.src.toNat [0xC2, 0, 5, 6, 7]) :=
  ⟨⟨tiny 0 [], by decide⟩, ⟨tiny 5 [0xC2, 0, 5], by decide, 3, by decide⟩,
    ⟨tiny 5 [0xC2, 0, 5, 6, 7], by decide, holdsAt_of_reads (by decide)⟩⟩

theorem witness_XorPassesUndoEachOther :
    (∃ t, exec .xorenc (tiny 5 [0xC1, 5, 1, 2, 3]) = .next t ∧ t.err = false) ∧
    (∃ t, exec .xordec (tiny 5 [0xC1, 5, 1, 2, 3]) = .next t ∧ t.err = false) :=
  ⟨next_of_after (by decide), next_of_after (by decide)⟩

theorem witness_CtrincStepsAndWraps :
    (∃ c : Counter, c.count.toNat + 1 ≤ c.max.toNat) ∧ (∃ c : Counter, c.max.toNat < c.count.toNat + 1) :=
  ⟨⟨{ count := 254, min := 0, max := 255 }, by decide⟩, ⟨{ count := 255, min := 0, max := 255 }, by decide⟩⟩

theorem witness_FrameAvailShowsWhetherStrnextDelivers :
    ∃ s : State, s.dst.toNat + 65535 ≤ s.params.bufSize ∧ s.frameAvail = true :=
  ⟨{ tiny 65535 [] with sb := [0xC1, 3, 0] }, by decide⟩

theorem witness_StrfeedAppendsBytes :
    (∃ s : State, s.sstate ≠ .opened) ∧
    (∃ s : State, s.sstate = .opened ∧ s.params.bufSize < s.src.toNat + s.len.toNat) ∧
    (∃ s : State, s.sstate = .opened ∧ s.src.toNat + s.len.toNat ≤ s.params.bufSize ∧
      s.params.streamCap < s.sb.length + s.len.toNat) ∧
    (∃ s : State, s.sstate = .opened ∧ s.src.toNat + s.len.toNat ≤ s.params.bufSize ∧
      s.sb.length + s.len.toNat ≤ s.params.streamCap ∧ unwrittenIn s.buf s.src.toNat s.len.toNat) ∧
    (∃ s : State, s.sstate = .opened ∧ s.src.toNat + s.len.toNat ≤ s.params.bufSize ∧
      s.sb.length + s.len.toNat ≤ s.params.streamCap ∧ s.len.toNat = 2 ∧ holdsAt s.buf s.src.toNat [8, 9]) :=
  ⟨⟨{ tiny 2 [] with sstate := .closed }, by decide⟩, ⟨{ tiny 2 [] with len := 3 }, by decide⟩,
    ⟨{ tiny 2 [] with len := 2, params := { defaultParams with bufSize := 2, streamCap := 1 } }, by decide⟩,
    ⟨{ tiny 2 [8] with len := 2 }, by decide, by decide, by decide, 1, by decide⟩,
    ⟨{ tiny 2 [8, 9] with len := 2, params := { defaultParams with bufSize := 2, streamCap := 2 } }, by decide, by decide,
      by decide, by decide, holdsAt_of_reads (by decide)⟩⟩

theorem witness_StrnextDeliversOneFrame :
    (∃ s : State, s.sstate = .terminated) ∧ declaredLength 0xC1 0 9 = 0 ∧
    (declaredLength 0xC1 1 9 ≠ 0 ∧ declaredLength 0xC1 1 9 < headerSize 0xC1) ∧
    (∃ s : State, s.sstate ≠ .terminated ∧ s.sb = [0xC1, 3, 9] ∧ declaredLength 0xC1 3 9 ≠ 0 ∧
      headerSize 0xC1 ≤ declaredLength 0xC1 3 9 ∧ s.params.bufSize < s.dst.toNat + declaredLength 0xC1 3 9 ∧
      declaredLength 0xC1 3 9 ≤ s.sb.length) ∧
    (∃ s : State, s.sstate ≠ .terminated ∧ s.sb = [0xC1, 3, 9] ++ [7] ∧
      s.dst.toNat + declaredLength 0xC1 3 9 ≤ s.params.bufSize ∧ ([0xC1, 3, 9] : List Byte).length = declaredLength 0xC1 3 9) ∧
    (∃ s : State, s.sb.length < 3 ∧ s.sstate = .opened) ∧ (∃ s : State, s.sb.length < 3 ∧ s.sstate = .closed) ∧
    (∃ s : State, s.sb = [0xC1, 4, 9] ∧ headerSize 0xC1 ≤ declaredLength 0xC1 4 9 ∧ s.sb.length < declaredLength 0xC1 4 9) :=
  ⟨⟨{ tiny 0 [] with sstate := .terminated }, by decide⟩, by decide, by decide, ⟨{ tiny 2 [] with sb := [0xC1, 3, 9] }, by decide⟩,
    ⟨{ tiny 3 [] with sb := [0xC1, 3, 9, 7] }, by decide⟩, ⟨{ tiny 0 [] with sb := [0xC1, 2] }, by decide⟩,
    ⟨{ tiny 0 [] with sb := [0xC1, 2], sstate := .closed }, by decide⟩, ⟨{ tiny 0 [] with sb := [0xC1, 4, 9] }, by decide⟩⟩

theorem witness_StrcloseAndStrreset : (∃ s : State, s.sstate = .opened) ∧ (∃ s : State, s.sstate ≠ .opened) :=
  ⟨⟨State.reset, by decide⟩, ⟨{ State.reset with sstate := .terminated }, by decide⟩⟩

/-- Two chunks that cut a frame's header. -/
theorem witness_ChunkingDoesNotChangeTheFrames :
    ∃ (s : State) (cs : List (List Byte)), cs = [[0xC1], [3, 9, 7]] ∧ s.sstate = .opened ∧ s.sb = [] ∧
      cs.flatten.length < 2 ^ 32 ∧ cs.flatten.length ≤ s.params.streamCap ∧
      s.src.toNat + cs.flatten.length ≤ s.params.bufSize ∧ s.dst.toNat + 65535 ≤ s.params.bufSize :=
  ⟨State.reset, [[0xC1], [3, 9, 7]], by decide⟩

end Sys2Proof.Machine.Tests
end

/-! PROOFS. The end of a command: what success and failure say of the state, for every command, and the success of each
command said once, with the checks it passed and the state it ends in. -/
section
namespace Sys2Proof.Machine

variable {s t : State}

/-! ## Success and failure, for every command -/

/-- Every command ends through `finish` (00_scope.md R12). -/
theorem exec_eq_finish (i : Instr) (s : State) : ∃ r, exec i s = s.finish r := by
  cases i with
  | nop | ctrinc | ctrrst | strclose | strreset => exact ⟨.ok _, rfl⟩
  | _ => exact ⟨_, rfl⟩

/-- A command that ends without an error had a value to complete. -/
theorem State.finish_success {r : Eval State} (h : s.finish r = .next t) (ht : t.err = false) :
    ∃ u, r = .ok u ∧ t = u.completeOk := by
  rcases State.finish_eq_next.mp h with hok | ⟨e, w, -, rfl⟩
  · exact hok
  · exact absurd ht (by simp)

@[simp] theorem State.onError_buf (s : State) (w : OnError) : (s.onError w).buf = s.buf := by
  cases w <;> rfl

/-- A failing command stores nothing (30_encoding.md R128). -/
theorem State.finish_failure_buf {r : Eval State} (h : s.finish r = .next t) (ht : t.err = true) : t.buf = s.buf := by
  rcases State.finish_eq_next.mp h with ⟨u, -, rfl⟩ | ⟨e, w, -, rfl⟩
  · exact absurd ht (by simp)
  · simp

/-- Every command that fails stores nothing, whichever it is. -/
theorem exec_failure_buf {i : Instr} (h : exec i s = .next t) (ht : t.err = true) : t.buf = s.buf := by
  obtain ⟨r, hr⟩ := exec_eq_finish i s
  exact State.finish_failure_buf (hr ▸ h) ht

/-! ## The success of each command that stores nothing -/

/-- NOP, like CTRINC, CTRRST, STRCLOSE and STRRESET, has no check and no read, so it always succeeds. -/
theorem exec_nop (s : State) : exec .nop s = .next s.completeOk := rfl

theorem hdrsize_success (h : exec .hdrsize s = .next t) (ht : t.err = false) :
    s.inBuf s.srcAddr 1 ∧ ∃ m, s.buf.read s.srcAddr = some m ∧
      t = (s.withResults (headerSize m) m.toNat).completeOk := by
  obtain ⟨u, hu, rfl⟩ := State.finish_success h ht
  simp only [Eval.check_eq_ok, Eval.bind_eq_ok, State.memByte_eq_ok, Eval.ok.injEq] at hu
  obtain ⟨hr, m, hm, rfl⟩ := hu
  exact ⟨hr, m, hm, rfl⟩

theorem declen_success (h : exec .declen s = .next t) (ht : t.err = false) :
    s.inBuf s.srcAddr 3 ∧ ∃ b0 b1 b2, s.buf.read s.srcAddr = some b0 ∧ s.buf.read (s.srcAddr + 1) = some b1 ∧
      s.buf.read (s.srcAddr + 2) = some b2 ∧
      t = (s.withResults (declaredLength b0 b1 b2) (headerSize b0)).completeOk := by
  obtain ⟨u, hu, rfl⟩ := State.finish_success h ht
  simp only [Eval.check_eq_ok, Eval.bind_eq_ok, State.memByte_eq_ok, Eval.ok.injEq] at hu
  obtain ⟨hr, b0, h0, b1, h1, b2, h2, rfl⟩ := hu
  exact ⟨hr, b0, b1, b2, h0, h1, h2, rfl⟩

/-- PKTTYPE and PKTSUB: the payload byte they deliver, when they do (44_framer.md R274, R275). -/
theorem State.payloadByte_eq_ok {k : Nat} {u : State} :
    s.payloadByte k = .ok u ↔
      ∃ p, s.framePrologue s.srcAddr false = .ok p ∧ p.h + (k + 1) ≤ p.len ∧ s.inBuf s.srcAddr (p.h + (k + 1)) ∧
        ∃ b, s.buf.read (s.srcAddr + (p.h + k)) = some b ∧ s.withResults b.toNat p.len = u := by
  simp only [State.payloadByte, Eval.check_eq_ok, Eval.bind_eq_ok, State.memByte_eq_ok, Eval.ok.injEq]

/-- Delivering a payload byte writes results only. -/
theorem State.payloadByte_buf {k : Nat} {u : State} (h : s.payloadByte k = .ok u) : u.buf = s.buf := by
  obtain ⟨p, -, -, -, b, -, rfl⟩ := State.payloadByte_eq_ok.mp h
  rfl

theorem pkttype_success (h : exec .pkttype s = .next t) (ht : t.err = false) :
    ∃ u, s.payloadByte 0 = .ok u ∧ t = u.completeOk :=
  State.finish_success h ht

theorem pktsub_success (h : exec .pktsub s = .next t) (ht : t.err = false) :
    ∃ u, s.payloadByte 1 = .ok u ∧ t = u.completeOk :=
  State.finish_success h ht

theorem encsize_success (h : exec .encsize s = .next t) (ht : t.err = false) :
    ∃ p, s.framePrologue s.srcAddr false = .ok p ∧
      ((plainMarker p.m = true ∧ t = (s.withResults p.len 0).completeOk) ∨
       (plainMarker p.m = false ∧ encryptedLength p.h p.len ≤ lengthLimit p.h ∧
        t = (s.withResults (encryptedLength p.h p.len) (blockCount p.h p.len)).completeOk)) := by
  obtain ⟨u, hu, rfl⟩ := State.finish_success h ht
  simp only [Eval.bind_eq_ok, Eval.ite_eq_ok, Eval.check_eq_ok, Eval.ok.injEq, Bool.not_eq_true] at hu
  obtain ⟨p, hp, ⟨hm, rfl⟩ | ⟨hm, hl, rfl⟩⟩ := hu
  · exact ⟨p, hp, .inl ⟨hm, rfl⟩⟩
  · exact ⟨p, hp, .inr ⟨hm, hl, rfl⟩⟩

theorem decsize_success (h : exec .decsize s = .next t) (ht : t.err = false) :
    ∃ p, s.framePrologue s.srcAddr false = .ok p ∧
      ((plainMarker p.m = true ∧ t = (s.withResults p.len 0).completeOk) ∨
       (plainMarker p.m = false ∧ (0 < p.len - p.h ∧ (p.len - p.h) % Config.encBlock = 0) ∧
        t = (s.withResults (p.h + Config.decBlock * ((p.len - p.h) / Config.encBlock) - 1)
          ((p.len - p.h) / Config.encBlock)).completeOk)) := by
  obtain ⟨u, hu, rfl⟩ := State.finish_success h ht
  simp only [Eval.bind_eq_ok, Eval.ite_eq_ok, Eval.check_eq_ok, Eval.ok.injEq, Bool.not_eq_true] at hu
  obtain ⟨p, hp, ⟨hm, rfl⟩ | ⟨hm, hb, rfl⟩⟩ := hu
  · exact ⟨p, hp, .inl ⟨hm, rfl⟩⟩
  · exact ⟨p, hp, .inr ⟨hm, hb, rfl⟩⟩

theorem exec_ctrinc (sel : CtrSel) (s : State) :
    exec (.ctrinc sel) s = .next ((s.setCounter sel (s.counter sel).increase).withResults
      (s.counter sel).increase.count.toNat (s.counter sel).count.toNat).completeOk := rfl

theorem exec_ctrrst (sel : CtrSel) (s : State) :
    exec (.ctrrst sel) s = .next ((s.setCounter sel (s.counter sel).restart).withResults
      (s.counter sel).restart.count.toNat (s.counter sel).count.toNat).completeOk := rfl

theorem strfeed_success (h : exec .strfeed s = .next t) (ht : t.err = false) :
    s.sstate = .opened ∧ s.inBuf s.srcAddr s.lenVal ∧ s.sb.length + s.lenVal ≤ s.params.streamCap ∧
      ∃ bs, bs.length = s.lenVal ∧ holdsAt s.buf s.srcAddr bs ∧
        t = (({ s with sb := s.sb ++ bs } : State).withResults (s.sb.length + s.lenVal) s.lenVal).completeOk := by
  obtain ⟨u, hu, rfl⟩ := State.finish_success h ht
  simp only [Eval.check_eq_ok, Eval.bind_eq_ok, State.memRead_eq_ok, Eval.ok.injEq] at hu
  obtain ⟨ho, hr, hc, bs, ⟨hl, hb⟩, rfl⟩ := hu
  exact ⟨ho, hr, hc, bs, hl, hb, rfl⟩

theorem exec_strclose (s : State) :
    exec .strclose s = .next (({ s with sstate := if s.sstate = .opened then .closed else s.sstate } :
      State).withResults s.sb.length 0).completeOk := rfl

theorem exec_strreset (s : State) :
    exec .strreset s =
      .next (({ s with sb := [], sstate := .opened } : State).withResults s.sb.length 0).completeOk := rfl

/-! ## The success of each command that stores -/

/-- WRHDR's two writes are one: the marker, then the length field (44_framer.md R276). -/
theorem State.writeLength_memWrite (s : State) (a h len : Nat) (m : Byte) :
    (s.memWrite a [m]).writeLength a h len = s.memWrite a (m :: lengthField h len) := rfl

theorem wrhdr_success (h : exec .wrhdr s = .next t) (ht : t.err = false) :
    headerSize s.markerOperand ≠ 0 ∧ (1 ≤ s.lenVal ∧ s.lenVal ≤ lengthLimit (headerSize s.markerOperand)) ∧
      s.inBuf s.dstAddr (headerSize s.markerOperand) ∧
      t = ((s.memWrite s.dstAddr (s.markerOperand :: lengthField (headerSize s.markerOperand) s.lenVal)).withResults
        (headerSize s.markerOperand) 0).completeOk := by
  obtain ⟨u, hu, rfl⟩ := State.finish_success h ht
  simp only [Eval.check_eq_ok, Eval.ok.injEq, State.writeLength_memWrite] at hu
  obtain ⟨hm, hl, hr, rfl⟩ := hu
  exact ⟨hm, hl, hr, rfl⟩

theorem shift_success (h : exec .shift s = .next t) (ht : t.err = false) :
    (0 < s.lenVal ∧ s.inBuf s.srcAddr (bitSpan s.arg0Val s.lenVal) ∧ s.inBuf s.dstAddr (bitSpan s.arg1Val s.lenVal) ∧
      ∃ src dst, src.length = bitSpan s.arg0Val s.lenVal ∧ holdsAt s.buf s.srcAddr src ∧
        dst.length = bitSpan s.arg1Val s.lenVal ∧ holdsAt s.buf s.dstAddr dst ∧
        t = ((s.memWrite s.dstAddr (shiftBytes dst s.arg1Val src s.arg0Val s.lenVal)).withResults
          (s.arg1Val + s.lenVal) 0).completeOk) ∨
    (s.lenVal = 0 ∧ t = (s.withResults (s.arg1Val + s.lenVal) 0).completeOk) := by
  obtain ⟨u, hu, rfl⟩ := State.finish_success h ht
  simp only [Eval.ite_eq_ok, Eval.check_eq_ok, Eval.bind_eq_ok, State.memRead_eq_ok, Eval.ok.injEq] at hu
  obtain ⟨hn, hs, hd, src, ⟨hsl, hsb⟩, dst, ⟨hdl, hdb⟩, rfl⟩ | ⟨hn, rfl⟩ := hu
  · exact .inl ⟨hn, hs, hd, src, dst, hsl, hsb, hdl, hdb, rfl⟩
  · exact .inr ⟨by omega, rfl⟩

theorem smencb_success (h : exec .smencb s = .next t) (ht : t.err = false) :
    (1 ≤ s.lenVal ∧ s.lenVal ≤ Config.decBlock) ∧ s.inBuf s.srcAddr s.lenVal ∧ s.inBuf s.dstAddr Config.encBlock ∧
      keyUsable s.ekey = true ∧ ∃ b, b.length = s.lenVal ∧ holdsAt s.buf s.srcAddr b ∧
        t = ((s.memWrite s.dstAddr (encodeBlock s.params.encMixOrder s.ekey b).eb).withResults Config.encBlock
          (encodeBlock s.params.encMixOrder s.ekey b).x.toNat).completeOk := by
  obtain ⟨u, hu, rfl⟩ := State.finish_success h ht
  simp only [Eval.check_eq_ok, Eval.bind_eq_ok, State.memRead_eq_ok, Eval.ok.injEq] at hu
  obtain ⟨hn, hs, hd, hk, b, ⟨hl, hb⟩, rfl⟩ := hu
  exact ⟨hn, hs, hd, hk, b, hl, hb, rfl⟩

theorem smdecb_success (h : exec .smdecb s = .next t) (ht : t.err = false) :
    s.inBuf s.srcAddr Config.encBlock ∧ s.inBuf s.dstAddr Config.decBlock ∧ keyUsable s.dkey = true ∧
      ∃ eb p, eb.length = Config.encBlock ∧ holdsAt s.buf s.srcAddr eb ∧
        p = decodeBlock s.params.encMixOrder s.dkey eb ∧ blockAccepted s.acceptBadCsum p ∧
        t = (((s.memWrite s.dstAddr p.o).withResults p.n (if p.ok then 1 else 0)).addWarn !p.ok).completeOk := by
  obtain ⟨u, hu, rfl⟩ := State.finish_success h ht
  simp only [Eval.check_eq_ok, Eval.bind_eq_ok, State.memRead_eq_ok, State.checkBlock_eq_ok, Bool.false_or,
    Eval.ok.injEq] at hu
  obtain ⟨hs, hd, hk, eb, ⟨hl, hb⟩, warn, ⟨ha, rfl⟩, rfl⟩ := hu
  exact ⟨hs, hd, hk, eb, _, hl, hb, rfl, ha, rfl⟩

/-- The plain-frame case of SMENCF and SMDECF, when it passes (42_simple_modulus.md R218). -/
theorem State.copyFrame_eq_ok {len : Nat} {u : State} :
    s.copyFrame len = .ok u ↔
      s.inBuf s.dstAddr len ∧ ∃ f, (f.length = len ∧ holdsAt s.buf s.srcAddr f) ∧
        (s.memWrite s.dstAddr f).withResults len 0 = u := by
  simp only [State.copyFrame, Eval.check_eq_ok, Eval.bind_eq_ok, State.memRead_eq_ok, Eval.ok.injEq]

/-- SMENCF (42_simple_modulus.md R216): a plain frame is copied; an encrypted one has the counter put before its payload. -/
theorem smencf_success (h : exec .smencf s = .next t) (ht : t.err = false) :
    ∃ p, s.framePrologue s.srcAddr true = .ok p ∧
      ((plainMarker p.m = true ∧ ∃ u, s.copyFrame p.len = .ok u ∧ t = u.completeOk) ∨
       (plainMarker p.m = false ∧ keyUsable s.ekey = true ∧ encryptedLength p.h p.len ≤ lengthLimit p.h ∧
        s.inBuf s.dstAddr (encryptedLength p.h p.len) ∧
        ∃ payload, payload.length = p.len - p.h ∧ holdsAt s.buf (s.srcAddr + p.h) payload ∧
          t = (((s.memWrite s.dstAddr (p.m :: lengthField p.h (encryptedLength p.h p.len) ++
              encodeBlocks s.params.encMixOrder s.ekey (blockCount p.h p.len) (s.ectr.count :: payload))).withResults
            (encryptedLength p.h p.len) s.ectr.count.toNat).setCounter .ectr s.ectr.increase).completeOk)) := by
  obtain ⟨u, hu, rfl⟩ := State.finish_success h ht
  simp only [Eval.bind_eq_ok, Eval.ite_eq_ok, Eval.check_eq_ok, State.memRead_eq_ok, Eval.ok.injEq,
    Bool.not_eq_true] at hu
  obtain ⟨p, hp, ⟨hm, hu⟩ | ⟨hm, hk, he, hd, payload, ⟨hl, hb⟩, rfl⟩⟩ := hu
  · exact ⟨p, hp, .inl ⟨hm, u, hu, rfl⟩⟩
  · exact ⟨p, hp, .inr ⟨hm, hk, he, hd, payload, hl, hb, rfl⟩⟩

/-- SMDECF (42_simple_modulus.md R217): a plain frame is copied; of an encrypted one every block was accepted, and c is
the content with the counter byte at its head. -/
theorem smdecf_success (h : exec .smdecf s = .next t) (ht : t.err = false) :
    ∃ p, s.framePrologue s.srcAddr true = .ok p ∧
      ((plainMarker p.m = true ∧ ∃ u, s.copyFrame p.len = .ok u ∧ t = u.completeOk) ∨
       (plainMarker p.m = false ∧ keyUsable s.dkey = true ∧
        (0 < p.len - p.h ∧ (p.len - p.h) % Config.encBlock = 0) ∧
        ∃ c warn, s.decodeBlocks ((p.len - p.h) / Config.encBlock) (s.srcAddr + p.h) false = .ok (c, warn) ∧
          c.headD 0#8 = s.dctr.count ∧ s.inBuf s.dstAddr (p.h + c.length - 1) ∧
          t = ((((s.memWrite s.dstAddr (p.m :: lengthField p.h (p.h + c.length - 1) ++ c.tail)).withResults
            (p.h + c.length - 1) (c.headD 0#8).toNat).setCounter .dctr s.dctr.increase).addWarn warn).completeOk)) := by
  obtain ⟨u, hu, rfl⟩ := State.finish_success h ht
  simp only [Eval.bind_eq_ok, Eval.ite_eq_ok, Eval.check_eq_ok, Eval.checkWarn_eq_ok, Eval.ok.injEq,
    Bool.not_eq_true] at hu
  obtain ⟨p, hp, ⟨hm, hu⟩ | ⟨hm, hk, hb, ⟨c, warn⟩, hc, h0, hd, rfl⟩⟩ := hu
  · exact ⟨p, hp, .inl ⟨hm, u, hu, rfl⟩⟩
  · exact ⟨p, hp, .inr ⟨hm, hk, hb, c, warn, hc, h0, hd, rfl⟩⟩

/-- XORENC and XORDEC, when the pass is made (43_xor32.md R251, R252). -/
theorem State.xorPass_eq_ok {pass : Nat → List Byte → List Byte} {u : State} :
    s.xorPass pass = .ok u ↔
      ∃ p, s.framePrologue s.srcAddr true = .ok p ∧ ∃ f, (f.length = p.len ∧ holdsAt s.buf s.srcAddr f) ∧
        (s.memWrite s.srcAddr (pass p.h f)).withResults p.len p.h = u := by
  simp only [State.xorPass, Eval.bind_eq_ok, State.memRead_eq_ok, Eval.ok.injEq]

theorem xorenc_success (h : exec .xorenc s = .next t) (ht : t.err = false) :
    ∃ u, s.xorPass (xorEncode s.xkeyw) = .ok u ∧ t = u.completeOk :=
  State.finish_success h ht

theorem xordec_success (h : exec .xordec s = .next t) (ht : t.err = false) :
    ∃ u, s.xorPass (xorDecode s.xkeyw) = .ok u ∧ t = u.completeOk :=
  State.finish_success h ht

/-- STRNEXT (45_stream_reader.md R303): a complete frame is delivered, or there is none and nothing is stored; the two
framing errors are no success. -/
theorem strnext_success (h : exec .strnext s = .next t) (ht : t.err = false) :
    s.sstate ≠ .terminated ∧
      ((∃ len, streamHead s.sb = .frame len ∧ s.inBuf s.dstAddr len ∧
        t = (({ s.memWrite s.dstAddr (s.sb.take len) with sb := s.sb.drop len } : State).withResults len
          (s.sb.length - len)).completeOk) ∨
       (∃ rest, streamHead s.sb = .incomplete ∧ rest = (if s.sstate = .closed then [] else s.sb) ∧
        t = (({ s with sb := rest } : State).withResults 0 rest.length).completeOk)) := by
  obtain ⟨u, hu, rfl⟩ := State.finish_success h ht
  obtain ⟨hst, hu⟩ := Eval.check_eq_ok.mp hu
  refine ⟨hst, ?_⟩
  cases hh : streamHead s.sb with
  | badMarker => simp [hh] at hu
  | badLength => simp [hh] at hu
  | frame len =>
    simp only [hh, Eval.check_eq_ok, Eval.ok.injEq] at hu
    obtain ⟨hd, rfl⟩ := hu
    exact .inl ⟨len, rfl, hd, rfl⟩
  | incomplete =>
    simp only [hh, Eval.ok.injEq] at hu
    exact .inr ⟨_, rfl, rfl, by rw [← hu]⟩

end Sys2Proof.Machine
end

/-! PROOFS. The frame of BUF: which bytes a command leaves as they were (00_scope.md R12; 30_encoding.md R127). -/
section
namespace Sys2Proof.Machine

variable {s t : State}

/-! ## The lengths and results a region is given by -/

/-- A register keeps a frame length, which fits 16 bits. -/
theorem toNat_ofNat_of_frameLength {n : Nat} (h : n < 65536) : (BitVec.ofNat 32 n).toNat = n := by
  rw [BitVec.toNat_ofNat]
  exact Nat.mod_eq_of_lt (by omega)

theorem lengthLimit_lt (h : Nat) : lengthLimit h < 65536 := by
  unfold lengthLimit
  split <;> omega

/-- A frame of header and body is as long as its header and its body. -/
theorem length_frame (m : Byte) {h : Nat} (hh : h = 2 ∨ h = 3) (len : Nat) (body : List Byte) :
    (m :: lengthField h len ++ body).length = h + body.length := by
  rw [List.length_append, List.length_cons, length_lengthField len hh]
  omega

/-- A complete frame at the head of the stream has a declared length, which fits 16 bits. -/
theorem streamHead_frame_lt {sb : List Byte} {len : Nat} (h : streamHead sb = .frame len) : len < 65536 := by
  unfold streamHead at h
  split at h
  · next b0 b1 b2 _ =>
    dsimp only at h
    split_ifs at h
    cases h
    exact declaredLength_lt b0 b1 b2
  · cases h

/-- Each of k accepted blocks gives 1 to 8 bytes of content (42_simple_modulus.md R215, R217). -/
theorem State.length_decodeBlocks {k a : Nat} {warn warned : Bool} {c : List Byte}
    (h : s.decodeBlocks k a warn = .ok (c, warned)) : k ≤ c.length ∧ c.length ≤ 8 * k := by
  induction k generalizing a warn c with
  | zero =>
    cases h
    simp
  | succ k ih =>
    simp only [State.decodeBlocks, Eval.bind_eq_ok, State.checkBlock_eq_ok, Eval.ok.injEq, Prod.mk.injEq] at h
    obtain ⟨eb, -, warn', ⟨⟨-, hn1, hn8⟩, -⟩, ⟨rest, _⟩, hq, rfl, rfl⟩ := h
    have hrest := ih hq
    simp only [List.length_append, List.length_take, length_decodeBlock]
    omega

/-! ## Memory outside a region -/

/-- m' reads as m outside the n bytes from address a. -/
def sameOutside (m m' : Memory) (a n : Nat) : Prop := ∀ x, x < a ∨ a + n ≤ x → m'.read x = m.read x

theorem storesNothing_of_eq {m m' : Memory} (h : m' = m) : storesNothing m m' := fun x => congrArg (·.read x) h

/-- A store leaves what is outside a region that holds its bytes. -/
theorem sameOutside_writeBytes (m : Memory) (a : Nat) {bs : List Byte} {n : Nat} (hn : bs.length ≤ n) :
    sameOutside m (m.writeBytes a bs) a n :=
  fun x hx => (Memory.storesOnly_writeBytes m a bs).2 x (by omega)

/-- Storing over a region bytes that agree with it where a byte is to be kept leaves that byte as it was. -/
theorem read_writeBytes_of_agree {m : Memory} {a x : Nat} {f g : List Byte} (hf : holdsAt m a f)
    (hl : g.length = f.length) (hg : a ≤ x → g[x - a]? = f[x - a]?) : (m.writeBytes a g).read x = m.read x := by
  by_cases hx : x < a ∨ a + g.length ≤ x
  · exact (Memory.storesOnly_writeBytes m a g).2 x hx
  · obtain ⟨j, rfl⟩ : ∃ j, x = a + j := ⟨x - a, by omega⟩
    have hj : j < f.length := by omega
    have hfj : f[j]? = some f[j] := List.getElem?_eq_getElem hj
    have hgj : g[j]? = some f[j] := by
      rw [← hfj]
      simpa using hg (by omega)
    rw [Memory.read_writeBytes_in m hgj, hf j _ hfj]

/-! ## The region of each storing command -/

theorem wrhdr_sameOutside (h : exec .wrhdr s = .next t) (ht : t.err = false) :
    sameOutside s.buf t.buf s.dstAddr (headerSize s.markerOperand) := by
  obtain ⟨hm, -, -, rfl⟩ := wrhdr_success h ht
  have hh := (headerSize_cases s.markerOperand).resolve_left hm
  refine sameOutside_writeBytes _ _ ?_
  simpa using (length_frame s.markerOperand hh s.lenVal []).le

theorem shift_sameOutside (h : exec .shift s = .next t) (ht : t.err = false) (hn : s.lenVal ≠ 0) :
    sameOutside s.buf t.buf s.dstAddr (bitSpan s.arg1Val s.lenVal) := by
  obtain ⟨-, -, -, src, dst, -, -, hd, -, rfl⟩ | ⟨h0, -⟩ := shift_success h ht
  · exact sameOutside_writeBytes _ _ (by simp [hd])
  · exact absurd h0 hn

theorem shift_zero_buf (h : exec .shift s = .next t) (ht : t.err = false) (hn : s.lenVal = 0) : t.buf = s.buf := by
  obtain ⟨hpos, -⟩ | ⟨-, rfl⟩ := shift_success h ht
  · omega
  · rfl

theorem smencb_sameOutside (h : exec .smencb s = .next t) (ht : t.err = false) :
    sameOutside s.buf t.buf s.dstAddr 11 := by
  obtain ⟨-, -, -, -, b, -, -, rfl⟩ := smencb_success h ht
  exact sameOutside_writeBytes _ _ (by simp)

theorem smdecb_sameOutside (h : exec .smdecb s = .next t) (ht : t.err = false) :
    sameOutside s.buf t.buf s.dstAddr 8 := by
  obtain ⟨-, -, -, eb, _, -, -, rfl, -, rfl⟩ := smdecb_success h ht
  exact sameOutside_writeBytes _ _ (by simp)

theorem State.copyFrame_sameOutside {len : Nat} {u : State} (h : s.copyFrame len = .ok u) (hlen : len < 65536) :
    sameOutside s.buf u.buf s.dstAddr u.result0.toNat := by
  obtain ⟨-, f, ⟨hf, -⟩, rfl⟩ := State.copyFrame_eq_ok.mp h
  rw [State.withResults_result0, toNat_ofNat_of_frameLength hlen]
  exact sameOutside_writeBytes _ _ hf.le

theorem smencf_sameOutside (h : exec .smencf s = .next t) (ht : t.err = false) :
    sameOutside s.buf t.buf s.dstAddr t.result0.toNat := by
  obtain ⟨p, hp, hcase⟩ := smencf_success h ht
  obtain ⟨-, -, hh, -, -, -, hlen, -⟩ := State.framePrologue_ok hp
  obtain ⟨-, u, hu, rfl⟩ | ⟨-, -, hE, -, payload, -, -, rfl⟩ := hcase
  · exact State.copyFrame_sameOutside (u := u) hu hlen
  · simp only [State.completeOk_result0, State.setCounter_result0, State.withResults_result0, State.completeOk_buf,
      State.setCounter_buf, State.withResults_buf, State.memWrite_buf,
      toNat_ofNat_of_frameLength (hE.trans_lt (lengthLimit_lt p.h))]
    refine sameOutside_writeBytes _ _ ?_
    rw [length_frame _ hh, length_encodeBlocks]
    exact le_rfl

theorem smdecf_sameOutside (h : exec .smdecf s = .next t) (ht : t.err = false) :
    sameOutside s.buf t.buf s.dstAddr t.result0.toNat := by
  obtain ⟨p, hp, hcase⟩ := smdecf_success h ht
  obtain ⟨-, -, hh, -, -, -, hlen, -⟩ := State.framePrologue_ok hp
  obtain ⟨-, u, hu, rfl⟩ | ⟨-, -, hb, c, warn, hc, -, -, rfl⟩ := hcase
  · exact State.copyFrame_sameOutside (u := u) hu hlen
  · obtain ⟨hc1, hc8⟩ := State.length_decodeBlocks hc
    simp only [Config.encBlock] at hb hc1 hc8
    have hlout : p.h + c.length - 1 < 65536 := by omega
    simp only [State.completeOk_result0, State.addWarn_result0, State.setCounter_result0, State.withResults_result0,
      State.completeOk_buf, State.addWarn_buf, State.setCounter_buf, State.withResults_buf, State.memWrite_buf,
      toNat_ofNat_of_frameLength hlout]
    refine sameOutside_writeBytes _ _ ?_
    rw [length_frame _ hh, List.length_tail]
    omega

/-! ## The XOR passes keep the header and the first payload byte -/

/-- A pass over the indices `is` leaves the byte at every other index. -/
theorem getElem?_foldl_xorAt_of_notMem (key : Vector Word 8) {is : List Nat} (f : List Byte) {j : Nat} (hj : j ∉ is) :
    (is.foldl (xorAt key) f)[j]? = f[j]? := by
  induction is generalizing f with
  | nil => rfl
  | cons i is ih =>
    rw [List.mem_cons, not_or] at hj
    obtain ⟨hne, hnot⟩ := hj
    rw [List.foldl_cons, ih _ hnot, xorAt, List.getElem?_set_ne (Ne.symm hne)]

theorem notMem_xorRange {h len j : Nat} (hj : j ≤ h) : j ∉ xorRange h len := by
  simp only [xorRange, List.mem_range'_1]
  omega

/-- A pass that keeps the frame's length and its bytes up to index h changes only those from h + 1 to L - 1
(43_xor32.md R250). -/
theorem State.xorPass_keeps {pass : Nat → List Byte → List Byte} {u : State} (h : s.xorPass pass = .ok u)
    (hlen : ∀ n f, (pass n f).length = f.length) (hkeep : ∀ n f j, j ≤ n → (pass n f)[j]? = f[j]?) {x : Nat}
    (hx : x ≤ s.srcAddr + u.result1.toNat ∨ s.srcAddr + u.result0.toNat ≤ x) : u.buf.read x = s.buf.read x := by
  obtain ⟨p, hp, f, ⟨hf, hb⟩, rfl⟩ := State.xorPass_eq_ok.mp h
  obtain ⟨-, -, -, -, -, hhl, hl, -⟩ := State.framePrologue_ok hp
  rw [State.withResults_result0, State.withResults_result1, toNat_ofNat_of_frameLength hl,
    toNat_ofNat_of_frameLength (hhl.trans_lt hl)] at hx
  refine read_writeBytes_of_agree hb (hlen p.h f) fun hge => ?_
  rcases hx with hlow | hhigh
  · exact hkeep p.h f _ (by omega)
  · rw [List.getElem?_eq_none (by rw [hlen]; omega), List.getElem?_eq_none (by omega)]

theorem xorenc_keeps (h : exec .xorenc s = .next t) (ht : t.err = false) {x : Nat}
    (hx : x ≤ s.srcAddr + t.result1.toNat ∨ s.srcAddr + t.result0.toNat ≤ x) : t.buf.read x = s.buf.read x := by
  obtain ⟨u, hu, rfl⟩ := xorenc_success h ht
  exact State.xorPass_keeps hu (length_xorEncode _)
    (fun n f j hj => getElem?_foldl_xorAt_of_notMem _ f (notMem_xorRange hj)) hx

theorem xordec_keeps (h : exec .xordec s = .next t) (ht : t.err = false) {x : Nat}
    (hx : x ≤ s.srcAddr + t.result1.toNat ∨ s.srcAddr + t.result0.toNat ≤ x) : t.buf.read x = s.buf.read x := by
  obtain ⟨u, hu, rfl⟩ := xordec_success h ht
  exact State.xorPass_keeps hu (length_xorDecode _)
    (fun n f j hj => getElem?_foldl_xorAt_of_notMem _ f (by simpa using notMem_xorRange hj)) hx

theorem strnext_sameOutside (h : exec .strnext s = .next t) (ht : t.err = false) :
    sameOutside s.buf t.buf s.dstAddr t.result0.toNat := by
  obtain ⟨-, ⟨len, hlen, -, rfl⟩ | ⟨rest, -, -, rfl⟩⟩ := strnext_success h ht
  · rw [State.completeOk_result0, State.withResults_result0, toNat_ofNat_of_frameLength (streamHead_frame_lt hlen)]
    exact sameOutside_writeBytes _ _ (List.length_take_le _ _)
  · exact fun x _ => rfl

/-! ## The statements -/

/-- The commands that store nothing keep BUF when they succeed: each success writes results, counters or the stream. -/
theorem nonstoring_success_buf {i : Instr}
    (hi : i ∈ [.nop, .hdrsize, .declen, .pkttype, .pktsub, .encsize, .decsize, .ctrinc .ectr, .ctrinc .dctr,
      .ctrrst .ectr, .ctrrst .dctr, .strfeed, .strclose, .strreset])
    (h : exec i s = .next t) (ht : t.err = false) : t.buf = s.buf := by
  cases i with
  | nop =>
    cases h.symm.trans (exec_nop s)
    rfl
  | hdrsize =>
    obtain ⟨-, m, -, rfl⟩ := hdrsize_success h ht
    rfl
  | declen =>
    obtain ⟨-, b0, b1, b2, -, -, -, rfl⟩ := declen_success h ht
    rfl
  | pkttype =>
    obtain ⟨u, hu, rfl⟩ := pkttype_success h ht
    exact State.payloadByte_buf (u := u) hu
  | pktsub =>
    obtain ⟨u, hu, rfl⟩ := pktsub_success h ht
    exact State.payloadByte_buf (u := u) hu
  | encsize => obtain ⟨p, -, ⟨-, rfl⟩ | ⟨-, -, rfl⟩⟩ := encsize_success h ht <;> rfl
  | decsize => obtain ⟨p, -, ⟨-, rfl⟩ | ⟨-, -, rfl⟩⟩ := decsize_success h ht <;> rfl
  | ctrinc sel =>
    cases h.symm.trans (exec_ctrinc sel s)
    simp
  | ctrrst sel =>
    cases h.symm.trans (exec_ctrrst sel s)
    simp
  | strfeed =>
    obtain ⟨-, -, -, bs, -, -, rfl⟩ := strfeed_success h ht
    rfl
  | strclose =>
    cases h.symm.trans (exec_strclose s)
    rfl
  | strreset =>
    cases h.symm.trans (exec_strreset s)
    rfl
  | _ => simp at hi

/-- Settles O15: a failing command completes through error entry, which keeps BUF, and a success of one that stores nothing
writes only results, counters or the stream. -/
theorem commandsThatStoreNothingLeaveTheBuffer : Obligations.CommandsThatStoreNothingLeaveTheBuffer := by
  refine ⟨fun i s t hi h => storesNothing_of_eq ?_, fun i s t h ht => storesNothing_of_eq (exec_failure_buf h ht)⟩
  cases ht : t.err with
  | false => exact nonstoring_success_buf hi h ht
  | true => exact exec_failure_buf h ht

/-- Settles O16, from the region of each storing command. -/
theorem storingCommandsChangeOnlyTheirRegion : Obligations.StoringCommandsChangeOnlyTheirRegion := by
  intro i s t h ht
  refine ⟨?_, ?_, ?_, ?_, ?_, ?_, ?_, ?_⟩
  · rintro rfl
    exact wrhdr_sameOutside h ht
  · rintro rfl hn
    exact shift_sameOutside h ht hn
  · rintro rfl hn
    exact storesNothing_of_eq (shift_zero_buf h ht hn)
  · rintro rfl
    exact smencb_sameOutside h ht
  · rintro rfl
    exact smdecb_sameOutside h ht
  · rintro (rfl | rfl)
    · exact smencf_sameOutside h ht
    · exact smdecf_sameOutside h ht
  · rintro (rfl | rfl) x hx
    · exact xorenc_keeps h ht hx
    · exact xordec_keeps h ht hx
  · rintro rfl
    exact strnext_sameOutside h ht

end Sys2Proof.Machine
end

/-! PROOFS. The host port: the fields of STATUS, and what an access to the register space does at a register while BUSY = 0
and where no register stands (10_state.md R32 to R47). -/
section
namespace Sys2Proof.Machine

/-! ## One-bit fields -/

theorem getLsbD_bit (b : Bool) (i : Nat) : (bit b).getLsbD i = (decide (i = 0) && b) := by
  cases b <;> simp [bit]

theorem toNat_bit (b : Bool) : (bit b).toNat = b.toNat := by
  cases b <;> rfl

/-! ## The fields of STATUS, whatever SSTATE and FRAME_AVAIL it shows (10_state.md R35) -/

section
variable (s : State) (sstate : BitVec 2) (frameAvail : BitVec 1)

theorem State.statusWith_flags :
    (s.statusWith sstate frameAvail).getLsbD 0 = s.busy ∧ (s.statusWith sstate frameAvail).getLsbD 1 = s.done ∧
    (s.statusWith sstate frameAvail).getLsbD 2 = s.err ∧ (s.statusWith sstate frameAvail).getLsbD 3 = s.errAcc ∧
    (s.statusWith sstate frameAvail).getLsbD 4 = s.csumWarn ∧
    (s.statusWith sstate frameAvail).getLsbD 5 = s.overrun := by
  simp only [State.statusWith, BitVec.getLsbD_append, getLsbD_bit]
  simp

theorem State.statusWith_sstate : (s.statusWith sstate frameAvail).extractLsb' 6 2 = sstate := by
  simp (disch := decide) only [State.statusWith, BitVec.extractLsb'_append_eq_of_le]
  exact BitVec.extractLsb'_append_eq_right

theorem State.statusWith_errCode : (s.statusWith sstate frameAvail).extractLsb' 8 8 = s.errCode.code := by
  simp (disch := decide) only [State.statusWith, BitVec.extractLsb'_append_eq_of_le]
  exact BitVec.extractLsb'_append_eq_right

theorem State.statusWith_frameAvail : (s.statusWith sstate frameAvail).getLsbD 16 = frameAvail.getLsbD 0 := by
  simp only [State.statusWith, BitVec.getLsbD_append]
  simp

/-- A bit from 17 up lies above every field. -/
theorem State.statusWith_reserved {b : Nat} (h : 17 ≤ b) : (s.statusWith sstate frameAvail).getLsbD b = false := by
  simp (disch := omega) only [State.statusWith, BitVec.getLsbD_append, if_neg, BitVec.getLsbD_zero]

end

/-! ## Accesses to registers -/

theorem State.hostWrite_reg_idle {s : State} (h : s.busy = false) (r : Reg) (v : Word) :
    s.hostWrite r.offset (.d32 v) = .next (s.writeReg r v) := by
  simp [State.hostWrite_reg, h]

/-- While BUSY = 0 no read is a hazard, and STATUS reads as any other register does. -/
theorem State.hostRead_reg_idle {s : State} (h : s.busy = false) (r : Reg) :
    s.hostRead .w32 r.offset = .next (s.respond (.d32 (s.regValue r))) := by
  rw [State.hostRead_reg]
  split
  · next hr => simp [hr, State.readStatus, State.regValue, h]
  · simp [h]

/-- STATUS is writable busy or not (70_reset_and_hazards.md R390). -/
theorem State.hostWrite_status (s : State) (v : Word) :
    s.hostWrite Reg.status.offset (.d32 v) = .next (s.writeStatus v) := by
  simp [State.hostWrite_reg, Reg.writableBusy, State.writeReg]

/-! ## Accesses where no register stands -/

/-- An aligned word below the window ends at or before the window's first byte, so it is never outside the PCB. -/
theorem State.aligned_register_word_inside (s : State) {off : Nat} (hlt : off < 0x10000) (hal : off % 4 = 0) :
    ¬ Config.windowBase + s.params.bufSize < off + 4 := by
  simp only [Config.windowBase]
  omega

/-- An unmapped offset reads as zero, busy or not. -/
theorem State.hostRead_unmapped (s : State) {off : Nat} (hlt : off < 0x10000) (hal : off % 4 = 0)
    (hr : ∀ r : Reg, off ≠ r.offset) : s.hostRead .w32 off = .next (s.respond (.d32 0#32)) := by
  simp [State.hostRead, Width.bytes, registerAccess, regAt_eq_none hr, s.aligned_register_word_inside hlt hal, hlt, hal]

/-- A write to an unmapped offset is ignored, busy or not. -/
theorem State.hostWrite_unmapped (s : State) (v : Word) {off : Nat} (hlt : off < 0x10000) (hal : off % 4 = 0)
    (hr : ∀ r : Reg, off ≠ r.offset) : s.hostWrite off (.d32 v) = .next s := by
  simp [State.hostWrite, BusData.width, Width.bytes, registerAccess, regAt_eq_none hr,
    s.aligned_register_word_inside hlt hal, hlt, hal]

/-! ## The statements -/

/-- Settles O7: the reset state and the tables are closed terms, and the 32 key bytes are computed from their words. -/
theorem defaultParametersAndKeyTables : Obligations.DefaultParametersAndKeyTables := by
  refine ⟨rfl, rfl, rfl, rfl, rfl, rfl, rfl, rfl, rfl, rfl, rfl, ?_⟩
  decide

/-- Settles O18: the map from `regAt_offset` and `offset_of_regAt`, the holes from the accesses at an unmapped offset. -/
theorem registerMapAndUnmappedOffsets : Obligations.RegisterMapAndUnmappedOffsets := by
  refine ⟨regAt_offset, fun _ _ => offset_of_regAt, rfl, fun _ => rfl, fun _ => rfl, fun _ => rfl, ?_, ?_⟩
  · intro s off v hlt hal hr
    exact ⟨s.hostRead_unmapped hlt hal hr, s.hostWrite_unmapped v hlt hal hr⟩
  · intro s w d off
    exact ⟨s.onBus_base off (s.hostRead w), s.onBus_base off (s.hostWrite · d)⟩

/-- Settles O19: each write is `writeReg` at its register and each read is `regValue`; only CTRL and the counters hold fewer
bits than their word shows. -/
theorem registerWritesAndReadsBack : Obligations.RegisterWritesAndReadsBack := by
  intro s v h
  have hw (r : Reg) : s.hostWrite r.offset (.d32 v) = .next (s.writeReg r v) := State.hostWrite_reg_idle h r v
  have hcounter (c : Byte) : (c.setWidth 32).toNat = c.toNat := BitVec.toNat_setWidth_of_le (by decide)
  have hctrl : (s.regValue .ctrl).toNat = s.acceptBadCsum.toNat := by
    rw [State.regValue, BitVec.toNat_append, toNat_bit]
    simp
  exact ⟨hw .id, hw .ctrl, hw .src, hw .dst, hw .len, hw .arg0, hw .arg1, hw .result0, hw .result1, hw .streamLevel,
    hw .ectrCount, hw .ectrMin, hw .ectrMax, hw .dctrCount, hw .dctrMin, hw .dctrMax,
    fun j => hw (.ekey j), fun j => hw (.dkey j), fun j => hw (.xkeyw j),
    State.hostRead_reg_idle h,
    rfl, hctrl, rfl, rfl, rfl, rfl, rfl, rfl, rfl, rfl, rfl,
    hcounter _, hcounter _, hcounter _, hcounter _, hcounter _, hcounter _,
    fun _ => rfl, fun _ => rfl, fun _ => rfl⟩

/-- Settles O20, from the fields of `statusWith`. -/
theorem statusFieldLayout : Obligations.StatusFieldLayout := by
  intro s
  obtain ⟨hbusy, hdone, herr, hacc, hwarn, hover⟩ := s.statusWith_flags s.sstate.code (bit s.frameAvail)
  refine ⟨hbusy, hdone, herr, hacc, hwarn, hover, ?_, s.statusWith_errCode _ _, ?_, fun _ => s.statusWith_reserved _ _⟩
  · rw [State.statusWord, State.statusWith_sstate]
    cases s.sstate <;> rfl
  · rw [State.statusWord, State.statusWith_frameAvail, getLsbD_bit]
    simp

/-- Settles O21: the next state is `writeStatus`, which masks each sticky bit with the complement of its bit of v. -/
theorem statusWriteClearsStickyBits : Obligations.StatusWriteClearsStickyBits := by
  intro s v
  refine ⟨s.writeStatus v, s.hostWrite_status v, rfl, ?_⟩
  simp +contextual [State.writeStatus]

end Sys2Proof.Machine
end

/-! PROOFS. The host's accesses to the register space and the BUF window: what is refused, what a window access does, and
what a read can change (20_memory.md R81 to R88). -/
section
namespace Sys2Proof.Machine

/-! ## Refused accesses -/

theorem registerAccess_eq_false {w : Width} {off : Nat} (h : w ≠ .w32 ∨ off % 4 ≠ 0) : registerAccess w off = false := by
  rcases h with h | h <;> simp [registerAccess, h]

theorem State.hostRead_outside {s : State} {w : Width} {off : Nat} (h : 0x10000 + s.params.bufSize < off + w.bytes) :
    s.hostRead w off = .refused .outsidePcb :=
  if_pos h

theorem State.hostWrite_outside {s : State} {d : BusData} {off : Nat}
    (h : 0x10000 + s.params.bufSize < off + d.width.bytes) : s.hostWrite off d = .refused .outsidePcb :=
  if_pos h

/-- Below the window only an aligned word is read. -/
theorem State.hostRead_badRegisterAccess {s : State} {w : Width} {off : Nat} (hlt : off < 0x10000)
    (hbad : w ≠ .w32 ∨ off % 4 ≠ 0) (hin : off + w.bytes ≤ 0x10000 + s.params.bufSize) :
    s.hostRead w off = .refused .badAccess := by
  simp [State.hostRead, hin.not_gt, hlt, registerAccess_eq_false hbad]

/-- Below the window only an aligned word is written. -/
theorem State.hostWrite_badRegisterAccess {s : State} {d : BusData} {off : Nat} (hlt : off < 0x10000)
    (hbad : d.width ≠ .w32 ∨ off % 4 ≠ 0) (hin : off + d.width.bytes ≤ 0x10000 + s.params.bufSize) :
    s.hostWrite off d = .refused .badAccess := by
  cases d with
  | d8 v | d16 v => simp [State.hostWrite, hin.not_gt, hlt]
  | d32 v =>
    have hacc : registerAccess .w32 off = false := registerAccess_eq_false hbad
    simp [State.hostWrite, hin.not_gt, hlt, hacc]

theorem State.hostRead_misaligned {s : State} {w : Width} {off : Nat} (hge : 0x10000 ≤ off)
    (hbad : off % w.bytes ≠ 0) (hin : off + w.bytes ≤ 0x10000 + s.params.bufSize) :
    s.hostRead w off = .refused .badAccess := by
  simp [State.hostRead, hin.not_gt, hge.not_gt, hbad]

theorem State.hostWrite_misaligned {s : State} {d : BusData} {off : Nat} (hge : 0x10000 ≤ off)
    (hbad : off % d.width.bytes ≠ 0) (hin : off + d.width.bytes ≤ 0x10000 + s.params.bufSize) :
    s.hostWrite off d = .refused .badAccess := by
  simp [State.hostWrite, hin.not_gt, hge.not_gt, hbad]

/-! ## Accesses to the window -/

/-- The window begins at a multiple of every width, so an offset in it is aligned as its buffer address is. -/
theorem window_aligned_iff (w : Width) (a : Nat) : (0x10000 + a) % w.bytes = 0 ↔ a % w.bytes = 0 := by
  cases w <;> simp only [Width.bytes] <;> omega

/-- An aligned read inside the window, said once (20_memory.md R81, R83; 70_reset_and_hazards.md R382, R391). -/
theorem State.hostRead_window {s : State} {w : Width} {a : Nat} (hal : a % w.bytes = 0)
    (hin : a + w.bytes ≤ s.params.bufSize) :
    s.hostRead w (0x10000 + a) =
      if s.busy then .fault .busyRead
      else (s.buf.readBytes a w.bytes).elim (.fault .unwrittenRead) fun bs => .next (s.respond (BusData.ofBytes w bs)) := by
  have hin' : ¬ 0x10000 + s.params.bufSize < 0x10000 + a + w.bytes := by omega
  simp only [State.hostRead, hin', (window_aligned_iff w a).mpr hal]
  cases hr : s.buf.readBytes a w.bytes <;> simp [hr]

/-- An aligned write inside the window, said once (20_memory.md R81, R83; 70_reset_and_hazards.md R390). -/
theorem State.hostWrite_window {s : State} {d : BusData} {a : Nat} (hal : a % d.width.bytes = 0)
    (hin : a + d.width.bytes ≤ s.params.bufSize) :
    s.hostWrite (0x10000 + a) d = if s.busy then .fault .busyWrite else .next (s.memWrite a d.toBytes) := by
  have hin' : ¬ 0x10000 + s.params.bufSize < 0x10000 + a + d.width.bytes := by omega
  simp [State.hostWrite, hin', (window_aligned_iff d.width a).mpr hal]

/-- While BUSY = 0 an aligned write inside the window stores the bytes of its data and nothing else. -/
theorem State.hostWrite_window_stores {s : State} (hidle : s.busy = false) {d : BusData} {a : Nat}
    (hal : a % d.width.bytes = 0) (hin : a + d.width.bytes ≤ s.params.bufSize) {bs : List Byte} (hbs : d.toBytes = bs) :
    ∃ m, s.hostWrite (0x10000 + a) d = .next { s with buf := m } ∧ storesOnly s.buf m a bs := by
  subst hbs
  refine ⟨s.buf.writeBytes a d.toBytes, ?_, Memory.storesOnly_writeBytes _ _ _⟩
  simp [State.hostWrite_window hal hin, hidle, State.memWrite]

/-- While BUSY = 0 an aligned read inside the window returns the bytes that stand there. -/
theorem State.hostRead_window_of_holdsAt {s : State} (hidle : s.busy = false) {w : Width} {a : Nat} {bs : List Byte}
    (hal : a % w.bytes = 0) (hin : a + w.bytes ≤ s.params.bufSize) (hlen : bs.length = w.bytes)
    (hbs : holdsAt s.buf a bs) : s.hostRead w (0x10000 + a) = .next (s.respond (BusData.ofBytes w bs)) := by
  rw [State.hostRead_window hal hin, hidle, (Memory.readBytes_eq_some_iff _ _ _ _).mpr ⟨hlen, hbs⟩]
  rfl

/-- While BUSY = 0 an aligned read inside the window that meets an unwritten byte is a fault. -/
theorem State.hostRead_window_of_unwrittenIn {s : State} (hidle : s.busy = false) {w : Width} {a : Nat}
    (hal : a % w.bytes = 0) (hin : a + w.bytes ≤ s.params.bufSize) (h : unwrittenIn s.buf a w.bytes) :
    s.hostRead w (0x10000 + a) = .fault .unwrittenRead := by
  rw [State.hostRead_window hal hin, hidle, (Memory.readBytes_eq_none_iff _ _ _).mpr h]
  rfl

/-- The bytes of a half-word, low byte first. -/
theorem BusData.toBytes_d16_append (b0 b1 : Byte) : (BusData.d16 (b1 ++ b0)).toBytes = [b0, b1] := by
  change [(b1 ++ b0).extractLsb' 0 8, (b1 ++ b0).extractLsb' 8 8] = _
  rw [BitVec.extractLsb'_append_eq_right, BitVec.extractLsb'_append_eq_left]

/-- The bytes of a word, low byte first. -/
theorem BusData.toBytes_d32_append (b0 b1 b2 b3 : Byte) :
    (BusData.d32 (b3 ++ b2 ++ b1 ++ b0)).toBytes = [b0, b1, b2, b3] := by
  change [(b3 ++ b2 ++ b1 ++ b0).extractLsb' 0 8, (b3 ++ b2 ++ b1 ++ b0).extractLsb' 8 8,
    (b3 ++ b2 ++ b1 ++ b0).extractLsb' 16 8, (b3 ++ b2 ++ b1 ++ b0).extractLsb' 24 8] = _
  simp (disch := decide) only [BitVec.extractLsb'_append_eq_of_le, BitVec.extractLsb'_append_eq_right, Nat.reduceSub,
    BitVec.extractLsb'_eq_self]

/-! ## What a read can change -/

@[simp] theorem BusData.width_ofBytes (w : Width) (bs : List Byte) : (BusData.ofBytes w bs).width = w := by
  cases w <;> rfl

/-- Every read that gives a next state answers data of its width; only a read of STATUS does more, and only while
BUSY = 1 (20_memory.md R88). -/
theorem State.hostRead_eq_next {s t : State} {w : Width} {off : Nat} (h : s.hostRead w off = .next t) :
    (∃ d, d.width = w ∧ t = s.respond d) ∨ (w = .w32 ∧ t = s.readStatus) := by
  unfold State.hostRead at h
  split at h
  · cases h
  split at h
  · split at h
    · next hacc =>
      obtain ⟨rfl, -⟩ : w = .w32 ∧ off % 4 = 0 := by simpa [registerAccess] using hacc
      split at h
      · cases h
        exact .inl ⟨_, rfl, rfl⟩
      · cases h
        exact .inr ⟨rfl, rfl⟩
      · split at h
        · cases h
        · cases h
          exact .inl ⟨_, rfl, rfl⟩
    · cases h
  split at h
  · cases h
  split at h
  · cases h
  split at h
  · cases h
  · cases h
    exact .inl ⟨_, BusData.width_ofBytes w _, rfl⟩

/-- A read of STATUS records a word, and draws a free value only while BUSY = 1 (70_reset_and_hazards.md R391). -/
theorem State.readStatus_eq (s : State) :
    ∃ v, s.readStatus = { s with hostReads := s.hostReads ++ [.d32 v], draws := s.readStatus.draws } ∧
      (s.busy = false → s.readStatus.draws = s.draws) := by
  unfold State.readStatus
  split
  · next h => exact ⟨_, rfl, fun hidle => absurd h (by simp [hidle])⟩
  · exact ⟨_, rfl, fun _ => rfl⟩

/-! ## The statements -/

/-- Settles O23: a window access writes `toBytes` and reads `ofBytes`, the low byte first. -/
theorem windowAccessesAreLittleEndian : Obligations.WindowAccessesAreLittleEndian := by
  intro s a hidle
  refine ⟨?_, ?_, ?_, ?_, ?_, ?_, ?_⟩
  · intro b0 hin
    exact State.hostWrite_window_stores hidle (d := .d8 b0) (Nat.mod_one a) hin rfl
  · intro b0 b1 hal hin
    exact State.hostWrite_window_stores hidle hal hin (BusData.toBytes_d16_append b0 b1)
  · intro b0 b1 b2 b3 hal hin
    exact State.hostWrite_window_stores hidle hal hin (BusData.toBytes_d32_append b0 b1 b2 b3)
  · intro b0 hin hb
    exact State.hostRead_window_of_holdsAt hidle (w := .w8) (bs := [b0]) (Nat.mod_one a) hin rfl hb
  · intro b0 b1 hal hin hb
    exact State.hostRead_window_of_holdsAt hidle (w := .w16) (bs := [b0, b1]) hal hin rfl hb
  · intro b0 b1 b2 b3 hal hin hb
    exact State.hostRead_window_of_holdsAt hidle (w := .w32) (bs := [b0, b1, b2, b3]) hal hin rfl hb
  · intro w hal hin hu
    exact State.hostRead_window_of_unwrittenIn hidle hal hin hu

/-- Settles O24: one lemma for each refusal of a read or write; the accesses of another width and those below PCB_BASE
never reach a register or the window. -/
theorem misalignedAndOutsideAccessesAreRefused : Obligations.MisalignedAndOutsideAccessesAreRefused := by
  refine ⟨fun s w off => State.hostRead_badRegisterAccess, fun s d off => State.hostWrite_badRegisterAccess,
    fun s w off => State.hostRead_misaligned, fun s d off => State.hostWrite_misaligned,
    fun s w off => State.hostRead_outside, fun s d off => State.hostWrite_outside,
    fun s w d n addr h => ⟨State.onBus_below h (s.hostRead w), State.onBus_below h (s.hostWrite · d),
      State.onBus_below h (s.hostOtherWidth n)⟩, fun s n off => ?_⟩
  have hbus : s.hostEvent (.otherWidth (s.params.pcbBase + off) n) = s.hostOtherWidth n off :=
    s.onBus_base off (s.hostOtherWidth n)
  rw [hbus]
  exact ⟨fun hin => if_neg hin.not_gt, fun hout => if_pos hout⟩

/-- Settles O27: a read answers data of its width, and only a STATUS read while BUSY = 1 draws a free value. -/
theorem readsHaveNoSideEffect : Obligations.ReadsHaveNoSideEffect := by
  intro s t w off h
  obtain ⟨d, hd, rfl⟩ | ⟨rfl, rfl⟩ := State.hostRead_eq_next h
  · exact ⟨d, rfl, hd, fun _ => rfl⟩
  · obtain ⟨v, hv, hdraws⟩ := s.readStatus_eq
    exact ⟨.d32 v, hv, rfl, hdraws⟩

end Sys2Proof.Machine
end

/-! PROOFS. The invariant of a PCB: its storage part, which the writes of a command and of the host keep, and its status
part, which acceptance and completion set (10_state.md R45, R46; 20_memory.md R82; 30_encoding.md R125, R127). -/
section
namespace Sys2Proof.Machine

variable {s t : State}

/-! ## The two parts of the invariant -/

/-- BUF is canonical and inside BUF_SIZE, and SB is inside STREAM_CAP (20_memory.md R82; 10_state.md R46). -/
def State.storageOk (s : State) : Prop :=
  s.buf.wf = true ∧ (∀ c ∈ s.buf, c.1 < s.params.bufSize) ∧ s.sb.length ≤ s.params.streamCap

/-- BUSY, DONE, ERR and ERRCODE agree (30_encoding.md R125, R127; 10_state.md R35). -/
def State.statusOk (s : State) : Prop :=
  (s.busy = true → s.done = false ∧ s.err = false ∧ s.errCode = .none) ∧
    (s.err = true ↔ s.errCode ≠ .none) ∧ (s.err = true → s.done = true)

theorem inv_iff_parts (s : State) : Inv s ↔ s.storageOk ∧ s.statusOk := by
  constructor
  · rintro ⟨hwf, hrange, hsb, hbusy, hcode, hdone⟩
    exact ⟨⟨hwf, hrange, hsb⟩, hbusy, hcode, hdone⟩
  · rintro ⟨⟨hwf, hrange, hsb⟩, hbusy, hcode, hdone⟩
    exact ⟨hwf, hrange, hsb, hbusy, hcode, hdone⟩

section
variable (hs : s.storageOk)
include hs

/-- A store whose range check passed keeps the storage part (20_memory.md R82). -/
theorem State.storageOk.memWrite {a : Nat} {bs : List Byte} (hr : s.inBuf a bs.length) :
    (s.memWrite a bs).storageOk := by
  obtain ⟨hwf, hrange, hsb⟩ := hs
  exact ⟨Memory.wf_writeBytes a bs hwf, Memory.inRange_writeBytes hr hrange, hsb⟩

theorem State.storageOk.streamBounded : s.sb.length ≤ s.params.streamCap := by
  obtain ⟨-, -, hsb⟩ := hs
  exact hsb

theorem State.storageOk.withSb {sb : List Byte} (hsb : sb.length ≤ s.params.streamCap) :
    ({ s with sb := sb } : State).storageOk := by
  obtain ⟨hwf, hrange, -⟩ := hs
  exact ⟨hwf, hrange, hsb⟩

theorem State.storageOk.withSstate (st : StreamState) : ({ s with sstate := st } : State).storageOk := hs

theorem State.storageOk.withResults {r0 r1 : Nat} : (s.withResults r0 r1).storageOk := hs

theorem State.storageOk.addWarn {warn : Bool} : (s.addWarn warn).storageOk := hs

theorem State.storageOk.setCounter {sel : CtrSel} {c : Counter} : (s.setCounter sel c).storageOk := by
  cases sel <;> exact hs

theorem State.storageOk.completeOk : s.completeOk.storageOk := hs

/-- The writes a failing command may make touch neither BUF nor SB (30_encoding.md R128). -/
theorem State.storageOk.onError (w : OnError) : (s.onError w).storageOk := by
  cases w <;> exact hs

theorem State.storageOk.raise {e : ErrCode} : (s.raise e).storageOk := hs

end

/-! ## Errors have a code -/

theorem State.framePrologue_ne_err_none {a : Nat} {full : Bool} {w : OnError} :
    s.framePrologue a full ≠ .err .none w := by
  intro h
  obtain ⟨-, he⟩ := State.framePrologue_err h
  simp at he

theorem State.checkBlock_ne_err_none {warn : Bool} {p : Plain} {w : OnError} : s.checkBlock warn p ≠ .err .none w := by
  simp [State.checkBlock_eq_err]

theorem State.decodeBlocks_ne_err_none {k a : Nat} {warn : Bool} {w : OnError} :
    s.decodeBlocks k a warn ≠ .err .none w := by
  induction k generalizing a warn with
  | zero => simp [State.decodeBlocks]
  | succ k ih => simp [State.decodeBlocks, Eval.bind_eq_err, State.checkBlock_ne_err_none, ih]

theorem State.copyFrame_ne_err_none {len : Nat} {w : OnError} : s.copyFrame len ≠ .err .none w := by
  simp [State.copyFrame, Eval.check_eq_err, Eval.bind_eq_err]

theorem State.payloadByte_ne_err_none {k : Nat} {w : OnError} : s.payloadByte k ≠ .err .none w := by
  simp [State.payloadByte, Eval.check_eq_err, Eval.bind_eq_err, State.framePrologue_ne_err_none]

theorem State.xorPass_ne_err_none {pass : Nat → List Byte → List Byte} {w : OnError} :
    s.xorPass pass ≠ .err .none w := by
  simp [State.xorPass, Eval.bind_eq_err, State.framePrologue_ne_err_none]

/-- A command whose errors have a code sets ERR exactly when it sets ERRCODE (30_encoding.md R127). -/
theorem State.statusOk_finish {r : Eval State} (hr : ∀ w, r ≠ .err .none w) (h : s.finish r = .next t) :
    t.statusOk := by
  rcases State.finish_eq_next.mp h with ⟨u, -, rfl⟩ | ⟨e, w, rfl, rfl⟩
  · simp [State.statusOk]
  · have he : e ≠ .none := by
      rintro rfl
      exact hr w rfl
    simp [State.statusOk, he]

/-- Every error a command can raise is a check's, of its own or of an operation it calls, and has a code: so every command
ends with BUSY clear, DONE set, and a code exactly with an error (30_encoding.md R127). -/
theorem exec_statusOk {i : Instr} (h : exec i s = .next t) : t.statusOk := by
  cases i with
  | nop | ctrinc | ctrrst | strclose | strreset => exact State.statusOk_finish (s := s) (r := .ok _) (fun w => nofun) h
  | pkttype | pktsub => exact State.statusOk_finish (fun w => State.payloadByte_ne_err_none) h
  | xorenc | xordec => exact State.statusOk_finish (fun w => State.xorPass_ne_err_none) h
  | strnext =>
    refine State.statusOk_finish (fun w => ?_) h
    cases streamHead s.sb <;> simp [Eval.check_eq_err]
  | _ =>
    refine State.statusOk_finish (fun w => ?_) h
    simp [Eval.check_eq_err, Eval.checkWarn_eq_err, Eval.bind_eq_err, Eval.ite_eq_err, State.framePrologue_ne_err_none,
      State.copyFrame_ne_err_none, State.checkBlock_ne_err_none, State.decodeBlocks_ne_err_none]

/-! ## Commands keep the storage part -/

theorem State.storageOk_of_failure {r : Eval State} (hs : s.storageOk) (h : s.finish r = .next t)
    (ht : t.err = true) : t.storageOk := by
  rcases State.finish_eq_next.mp h with ⟨u, -, rfl⟩ | ⟨e, w, -, rfl⟩
  · exact absurd ht (by simp)
  · exact (hs.onError w).raise

theorem State.storageOk_payloadByte {k : Nat} {u : State} (hs : s.storageOk) (h : s.payloadByte k = .ok u) :
    u.storageOk := by
  obtain ⟨p, -, -, -, b, -, rfl⟩ := State.payloadByte_eq_ok.mp h
  exact hs.withResults

theorem State.storageOk_copyFrame {len : Nat} {u : State} (hs : s.storageOk) (h : s.copyFrame len = .ok u) :
    u.storageOk := by
  obtain ⟨hd, f, ⟨rfl, -⟩, rfl⟩ := State.copyFrame_eq_ok.mp h
  exact (hs.memWrite hd).withResults

/-- A pass that keeps the frame's length stores into the frame, which FramePrologue found inside BUF. -/
theorem State.storageOk_xorPass {pass : Nat → List Byte → List Byte} {u : State} (hs : s.storageOk)
    (hlen : ∀ n f, (pass n f).length = f.length) (h : s.xorPass pass = .ok u) : u.storageOk := by
  obtain ⟨p, hp, f, ⟨hf, -⟩, rfl⟩ := State.xorPass_eq_ok.mp h
  obtain ⟨-, -, -, -, -, -, -, hin⟩ := State.framePrologue_ok hp
  have hr : s.inBuf s.srcAddr (pass p.h f).length := by
    rw [hlen, hf]
    exact hin rfl
  exact (hs.memWrite hr).withResults

theorem wrhdr_storageOk (hs : s.storageOk) (h : exec .wrhdr s = .next t) (ht : t.err = false) : t.storageOk := by
  obtain ⟨hm, -, hd, rfl⟩ := wrhdr_success h ht
  have hlen := length_frame s.markerOperand ((headerSize_cases _).resolve_left hm) s.lenVal []
  rw [List.append_nil, List.length_nil, Nat.add_zero] at hlen
  exact (hs.memWrite (by rwa [hlen])).withResults.completeOk

theorem shift_storageOk (hs : s.storageOk) (h : exec .shift s = .next t) (ht : t.err = false) : t.storageOk := by
  obtain ⟨-, -, hd, src, dst, -, -, hl, -, rfl⟩ | ⟨-, rfl⟩ := shift_success h ht
  · exact (hs.memWrite (by rwa [length_shiftBytes, hl])).withResults.completeOk
  · exact hs.withResults.completeOk

theorem smencb_storageOk (hs : s.storageOk) (h : exec .smencb s = .next t) (ht : t.err = false) : t.storageOk := by
  obtain ⟨-, -, hd, -, b, -, -, rfl⟩ := smencb_success h ht
  exact (hs.memWrite (by rwa [length_encodeBlock])).withResults.completeOk

theorem smdecb_storageOk (hs : s.storageOk) (h : exec .smdecb s = .next t) (ht : t.err = false) : t.storageOk := by
  obtain ⟨-, hd, -, eb, p, -, -, rfl, -, rfl⟩ := smdecb_success h ht
  exact (hs.memWrite (by rwa [length_decodeBlock])).withResults.addWarn.completeOk

theorem smencf_storageOk (hs : s.storageOk) (h : exec .smencf s = .next t) (ht : t.err = false) : t.storageOk := by
  obtain ⟨p, hp, hcase⟩ := smencf_success h ht
  obtain ⟨-, -, hh, -⟩ := State.framePrologue_ok hp
  obtain ⟨-, u, hu, rfl⟩ | ⟨-, -, -, hd, payload, -, -, rfl⟩ := hcase
  · exact (State.storageOk_copyFrame hs hu).completeOk
  · exact (hs.memWrite (by rwa [length_frame _ hh, length_encodeBlocks])).withResults.setCounter.completeOk

/-- The content has a byte for each block, so the frame stored is as long as the length its check passed. -/
theorem smdecf_storageOk (hs : s.storageOk) (h : exec .smdecf s = .next t) (ht : t.err = false) : t.storageOk := by
  obtain ⟨p, hp, hcase⟩ := smdecf_success h ht
  obtain ⟨-, -, hh, -⟩ := State.framePrologue_ok hp
  obtain ⟨-, u, hu, rfl⟩ | ⟨-, -, ⟨hpos, hmod⟩, c, warn, hc, -, hd, rfl⟩ := hcase
  · exact (State.storageOk_copyFrame hs hu).completeOk
  · obtain ⟨hblocks, -⟩ := State.length_decodeBlocks hc
    have hc1 : 1 ≤ c.length := by
      simp only [Config.encBlock] at hmod hblocks
      omega
    have hlen : (p.m :: lengthField p.h (p.h + c.length - 1) ++ c.tail).length = p.h + c.length - 1 := by
      rw [length_frame _ hh, List.length_tail, ← Nat.add_sub_assoc hc1]
    exact (hs.memWrite (by rwa [hlen])).withResults.setCounter.addWarn.completeOk

theorem strfeed_storageOk (hs : s.storageOk) (h : exec .strfeed s = .next t) (ht : t.err = false) : t.storageOk := by
  obtain ⟨-, -, hcap, bs, hl, -, rfl⟩ := strfeed_success h ht
  exact (hs.withSb (by rwa [List.length_append, hl])).withResults.completeOk

/-- STRNEXT delivers the first bytes of SB to a checked region, and never lengthens SB. -/
theorem strnext_storageOk (hs : s.storageOk) (h : exec .strnext s = .next t) (ht : t.err = false) : t.storageOk := by
  obtain ⟨-, ⟨len, -, hd, rfl⟩ | ⟨rest, -, rfl, rfl⟩⟩ := strnext_success h ht
  · have hr : s.inBuf s.dstAddr (s.sb.take len).length :=
      (Nat.add_le_add_left (List.length_take_le _ _) _).trans hd
    have hdrop : (s.sb.drop len).length ≤ s.params.streamCap := (List.drop_sublist _ _).length_le.trans hs.streamBounded
    exact ((hs.memWrite hr).withSb hdrop).withResults.completeOk
  · have hrest : (if s.sstate = .closed then [] else s.sb).length ≤ s.params.streamCap := by
      split
      · exact Nat.zero_le _
      · exact hs.streamBounded
    exact (hs.withSb hrest).withResults.completeOk

/-- A command that succeeds keeps the storage part: each store passed its range check, and STRFEED its capacity check. -/
theorem exec_success_storageOk {i : Instr} (hs : s.storageOk) (h : exec i s = .next t) (ht : t.err = false) :
    t.storageOk := by
  cases i with
  | nop =>
    cases h.symm.trans (exec_nop s)
    exact hs.completeOk
  | hdrsize =>
    obtain ⟨-, m, -, rfl⟩ := hdrsize_success h ht
    exact hs.withResults.completeOk
  | declen =>
    obtain ⟨-, b0, b1, b2, -, -, -, rfl⟩ := declen_success h ht
    exact hs.withResults.completeOk
  | pkttype =>
    obtain ⟨u, hu, rfl⟩ := pkttype_success h ht
    exact (State.storageOk_payloadByte hs hu).completeOk
  | pktsub =>
    obtain ⟨u, hu, rfl⟩ := pktsub_success h ht
    exact (State.storageOk_payloadByte hs hu).completeOk
  | wrhdr => exact wrhdr_storageOk hs h ht
  | encsize => obtain ⟨p, -, ⟨-, rfl⟩ | ⟨-, -, rfl⟩⟩ := encsize_success h ht <;> exact hs.withResults.completeOk
  | decsize => obtain ⟨p, -, ⟨-, rfl⟩ | ⟨-, -, rfl⟩⟩ := decsize_success h ht <;> exact hs.withResults.completeOk
  | shift => exact shift_storageOk hs h ht
  | smencb => exact smencb_storageOk hs h ht
  | smdecb => exact smdecb_storageOk hs h ht
  | smencf => exact smencf_storageOk hs h ht
  | smdecf => exact smdecf_storageOk hs h ht
  | xorenc =>
    obtain ⟨u, hu, rfl⟩ := xorenc_success h ht
    exact (State.storageOk_xorPass hs (length_xorEncode _) hu).completeOk
  | xordec =>
    obtain ⟨u, hu, rfl⟩ := xordec_success h ht
    exact (State.storageOk_xorPass hs (length_xorDecode _) hu).completeOk
  | ctrinc sel =>
    cases h.symm.trans (exec_ctrinc sel s)
    exact hs.setCounter.withResults.completeOk
  | ctrrst sel =>
    cases h.symm.trans (exec_ctrrst sel s)
    exact hs.setCounter.withResults.completeOk
  | strfeed => exact strfeed_storageOk hs h ht
  | strnext => exact strnext_storageOk hs h ht
  | strclose =>
    cases h.symm.trans (exec_strclose s)
    exact (hs.withSstate _).withResults.completeOk
  | strreset =>
    cases h.symm.trans (exec_strreset s)
    exact ((hs.withSb (sb := []) (Nat.zero_le _)).withSstate _).withResults.completeOk

/-! ## The engine keeps the invariant -/

theorem exec_inv {i : Instr} (hs : s.storageOk) (h : exec i s = .next t) : Inv t := by
  refine (inv_iff_parts t).mpr ⟨?_, exec_statusOk h⟩
  cases ht : t.err with
  | false => exact exec_success_storageOk hs h ht
  | true =>
    obtain ⟨r, hr⟩ := exec_eq_finish i s
    exact State.storageOk_of_failure hs (hr ▸ h) ht

/-- An illegal word is error entry with ILLEGAL_CMD (30_encoding.md R124). -/
theorem State.engineStep_inv (hs : s.storageOk) (h : s.engineStep = .next t) : Inv t := by
  unfold State.engineStep at h
  split at h
  · exact exec_inv hs h
  · cases h
    refine (inv_iff_parts _).mpr ⟨hs, ?_⟩
    simp [State.statusOk]

/-! ## The host port keeps the invariant -/

/-- A host write that gives a next state is ignored, or is a register's write, or stores inside the window. -/
theorem State.hostWrite_eq_next {off : Nat} {d : BusData} (h : s.hostWrite off d = .next t) :
    t = s ∨ (∃ r v, t = s.writeReg r v) ∨ (∃ a, s.inBuf a d.width.bytes ∧ t = s.memWrite a d.toBytes) := by
  unfold State.hostWrite at h
  split at h
  · cases h
  next hin =>
    split at h
    · split at h
      · split at h
        · split at h
          · cases h
            exact .inl rfl
          · split at h
            · cases h
            · cases h
              exact .inr (.inl ⟨_, _, rfl⟩)
        · cases h
      · cases h
    next hge =>
      split at h
      · cases h
      split at h
      · cases h
      · cases h
        refine .inr (.inr ⟨_, ?_, rfl⟩)
        simp only [State.inBuf, Config.windowBase] at hin hge ⊢
        omega

/-- A CMD write is accepted with DONE, ERR and ERRCODE clear, or sets OVERRUN only (30_encoding.md R125). -/
theorem State.issue_inv (hs : Inv s) (w : Word) : Inv (s.issue w) := by
  obtain ⟨hstore, hstatus⟩ := (inv_iff_parts s).mp hs
  refine (inv_iff_parts _).mpr ?_
  unfold State.issue
  split
  · exact ⟨hstore, hstatus⟩
  · refine ⟨hstore, ?_⟩
    simp [State.statusOk]

/-- No register but CMD is a field of the invariant. -/
theorem State.writeReg_inv (hs : Inv s) (r : Reg) (v : Word) : Inv (s.writeReg r v) := by
  cases r with
  | cmd => exact State.issue_inv hs v
  | _ => exact (inv_iff_parts _).mpr ((inv_iff_parts s).mp hs)

theorem State.hostWrite_inv (hs : Inv s) {off : Nat} {d : BusData} (h : s.hostWrite off d = .next t) : Inv t := by
  rcases State.hostWrite_eq_next h with rfl | ⟨r, v, rfl⟩ | ⟨a, hin, rfl⟩
  · exact hs
  · exact State.writeReg_inv hs r v
  · obtain ⟨hstore, hstatus⟩ := (inv_iff_parts s).mp hs
    refine (inv_iff_parts _).mpr ⟨hstore.memWrite ?_, hstatus⟩
    rwa [BusData.length_toBytes]

/-- The model's own records of reads and of free values drawn are no part of the invariant. -/
theorem inv_withRecords (hs : Inv s) (reads : List BusData) (draws : Nat) :
    Inv { s with hostReads := reads, draws := draws } :=
  (inv_iff_parts _).mpr ((inv_iff_parts s).mp hs)

/-- The model's own queue and delay are no part of the invariant. -/
theorem inv_withQueue (hs : Inv s) (queue : List HostEvent) (delay : Nat) :
    Inv { s with hostQueue := queue, delay := delay } :=
  (inv_iff_parts _).mpr ((inv_iff_parts s).mp hs)

theorem State.hostRead_inv (hs : Inv s) {w : Width} {off : Nat} (h : s.hostRead w off = .next t) : Inv t := by
  obtain ⟨d, ht, -, -⟩ := readsHaveNoSideEffect s t w off h
  rw [ht]
  exact inv_withRecords hs _ _

theorem State.readStatus_inv (hs : Inv s) : Inv s.readStatus := by
  obtain ⟨v, hv, -⟩ := s.readStatus_eq
  rw [hv]
  exact inv_withRecords hs _ _

theorem State.hostWait_inv (hs : Inv s) : Inv s.hostWait := by
  unfold State.hostWait
  split
  · exact inv_withQueue (State.readStatus_inv hs) _ _
  · exact State.readStatus_inv hs

/-- The reset state has the invariant, whatever the parameters (70_reset_and_hazards.md R381). -/
theorem resetWith_inv (p : Params) : Inv (State.resetWith p) := by
  constructor <;> simp [State.resetWith, Memory.wf, Memory.risesFrom]

theorem State.platformReset_inv (s : State) : Inv s.platformReset :=
  inv_withQueue (inv_withRecords (resetWith_inv s.params) s.hostReads s.draws) s.hostQueue 0

theorem State.hostEvent_inv (hs : Inv s) {e : HostEvent} (h : s.hostEvent e = .next t) : Inv t := by
  cases e with
  | read w addr => exact State.hostRead_inv hs (State.onBus_eq_next.mp h).2
  | write addr d => exact State.hostWrite_inv hs (State.onBus_eq_next (f := (s.hostWrite · d)).mp h).2
  | otherWidth addr n => exact absurd (State.onBus_eq_next (f := s.hostOtherWidth n).mp h).2 State.hostOtherWidth_ne_next
  | wait =>
    cases h
    exact State.hostWait_inv hs
  | reset =>
    cases h
    exact s.platformReset_inv

theorem State.hostStep_inv (hs : Inv s) (h : s.hostStep = .next t) : Inv t := by
  unfold State.hostStep at h
  split at h
  · cases h
    exact hs
  · exact State.hostEvent_inv (inv_withQueue hs _ _) h

/-! ## The statement -/

/-- Settles O10: a step is one of the engine or of the host port, and each keeps the invariant. -/
theorem everyStepKeepsTheInvariant : Obligations.EveryStepKeepsTheInvariant := by
  intro s t hs h
  unfold step at h
  split at h
  · exact State.engineStep_inv ((inv_iff_parts s).mp hs).1 h
  · exact State.hostStep_inv hs h

end Sys2Proof.Machine
end

/-! PROOFS. The decoder: what its fields say of a word, and the words it answers with a command (30_encoding.md R120, R122,
R124). -/
section
namespace Sys2Proof

/-! ## The fields of a command word -/

/-- MBZ, SEL and OP are the whole word: no bit is dropped (30_encoding.md R120). -/
theorem commandWord_eq_iff {w : Word} {mbz : BitVec 23} {sel : BitVec 1} {op : Byte} :
    w = mbz ++ sel ++ op ↔ mbzField w = mbz ∧ selField w = sel ∧ opField w = op := by
  constructor
  · rintro rfl
    refine ⟨?_, ?_, BitVec.extractLsb'_append_eq_right⟩
    · rw [mbzField, BitVec.extractLsb'_append_eq_of_le (by decide)]
      exact BitVec.extractLsb'_append_eq_left
    · rw [selField, BitVec.extractLsb'_append_eq_of_le (by decide)]
      exact BitVec.extractLsb'_append_eq_right
  · rintro ⟨rfl, rfl, rfl⟩
    have hhigh : mbzField w ++ selField w = w.extractLsb' 8 24 := BitVec.extractLsb'_append_extractLsb'_eq_extractLsb' rfl
    rw [hhigh]
    have hall : w.extractLsb' 8 24 ++ opField w = w.extractLsb' 0 32 :=
      BitVec.extractLsb'_append_extractLsb'_eq_extractLsb' rfl
    rw [hall, BitVec.extractLsb'_eq_self]

theorem mbzField_eq_zero_iff {w : Word} : mbzField w = 0#23 ↔ ∀ b, 9 ≤ b → b ≤ 31 → w.getLsbD b = false := by
  constructor
  · intro h b hlo hhi
    have hbit : (mbzField w).getLsbD (b - 9) = false := by rw [h, BitVec.getLsbD_zero]
    rw [mbzField, BitVec.getLsbD_extractLsb', Nat.add_sub_cancel' hlo, decide_eq_true (by omega)] at hbit
    exact hbit
  · intro h
    refine BitVec.eq_of_getLsbD_eq fun j hj => ?_
    rw [mbzField, BitVec.getLsbD_extractLsb', h (9 + j) (by omega) (by omega), Bool.and_false, BitVec.getLsbD_zero]

theorem selField_eq_zero_iff {w : Word} : selField w = 0#1 ↔ w.getLsbD 8 = false := by
  have hbit : w.getLsbD 8 = (selField w).getLsbD 0 := by simp [selField]
  rw [hbit]
  rcases BitVec.eq_zero_or_eq_one (selField w) with h | h <;> simp [h]

/-! ## The opcode map -/

theorem plainCommand_eq_command_iff {i j : Instr} {sel : BitVec 1} :
    plainCommand j sel = .command i ↔ i = j ∧ sel = 0#1 := by
  unfold plainCommand
  split
  · next h => simp [h, eq_comm]
  · next h => simp [h]

@[simp] theorem counterOf_bit (sel : CtrSel) : counterOf sel.bit = sel := by
  cases sel <;> rfl

@[simp] theorem bit_counterOf (sel : BitVec 1) : (counterOf sel).bit = sel := by
  rcases BitVec.eq_zero_or_eq_one sel with rfl | rfl <;> rfl

/-- The opcode map, both ways: OP and SEL name a command exactly when they are that command's (30_encoding.md R122). -/
theorem decodeOp_eq_command_iff {op : Byte} {sel : BitVec 1} {i : Instr} :
    decodeOp op sel = .command i ↔ sel = i.sel ∧ op = i.op := by
  constructor
  · intro h
    unfold decodeOp at h
    split at h
    case h_16 hop | h_17 hop =>
      cases h
      exact ⟨(bit_counterOf sel).symm, BitVec.eq_of_toNat_eq hop⟩
    case h_22 => cases h
    all_goals
      next hop =>
      obtain ⟨rfl, rfl⟩ := plainCommand_eq_command_iff.mp h
      exact ⟨rfl, BitVec.eq_of_toNat_eq hop⟩
  · rintro ⟨rfl, rfl⟩
    cases i with
    | ctrinc sel | ctrrst sel => simp [decodeOp, Instr.sel, Instr.op]
    | _ => rfl

/-- Settles O1: a word is its three fields, and MBZ, SEL and OP are those of i exactly when the decoder answers i. -/
theorem decodeAnswersExactlyTheEncodedCommand : Obligations.DecodeAnswersExactlyTheEncodedCommand := by
  intro w i
  rw [encode, commandWord_eq_iff, ← decodeOp_eq_command_iff]
  unfold decode
  split
  · next h => simp [h]
  · next h => simp [h]

/-- Settles O3, each word by evaluating the decoder. -/
theorem commandWordsOfTheOpcodeMap : Obligations.CommandWordsOfTheOpcodeMap := by
  unfold Obligations.CommandWordsOfTheOpcodeMap
  decide

/-! ## Legal words -/

/-- The OP values that name a command, and the two of them that take SEL (30_encoding.md R124). -/
theorem exists_decodeOp_eq_command_iff {op : Byte} {sel : BitVec 1} :
    (∃ i, decodeOp op sel = .command i) ↔
      op.toNat ∈ [0x00, 0x01, 0x02, 0x03, 0x04, 0x05, 0x08, 0x09, 0x0A, 0x10, 0x11, 0x12, 0x13, 0x18, 0x19, 0x20, 0x21,
        0x30, 0x31, 0x32, 0x33] ∧ (sel = 0#1 ∨ op.toNat = 0x20 ∨ op.toNat = 0x21) := by
  unfold decodeOp
  split
  case h_22 =>
    refine iff_of_false (by simp) ?_
    simp only [List.mem_cons, List.not_mem_nil]
    tauto
  all_goals
    next hop => simp [hop, plainCommand_eq_command_iff]

/-- MBZ must be zero, and OP and SEL must name a command (30_encoding.md R124). -/
theorem exists_decode_eq_command_iff {w : Word} :
    (∃ i, decode w = .command i) ↔ mbzField w = 0#23 ∧ ∃ i, decodeOp (opField w) (selField w) = .command i := by
  unfold decode
  split
  · next h => simp [h]
  · next h => simp [h]

namespace Machine

/-! ## The engine's step on a legal and on an illegal word (30_encoding.md R124, R126) -/

theorem State.engineStep_of_command {s : State} {i : Instr} (h : decode s.pending = .command i) :
    s.engineStep = exec i s := by
  unfold State.engineStep
  rw [h]

theorem State.engineStep_of_illegal {s : State} (h : ∀ i, decode s.pending ≠ .command i) :
    s.engineStep = .next (failWith s .illegalCmd) := by
  unfold State.engineStep
  split
  · next i hi => exact absurd hi (h i)
  · rfl

end Machine

/-- Settles O2: the decoder tests MBZ, then OP, then SEL, and without a command the engine takes the error. -/
theorem legalWordsDecodeAndOthersRaiseIllegalCmd : Obligations.LegalWordsDecodeAndOthersRaiseIllegalCmd := by
  refine ⟨fun w => ?_, fun s => Machine.State.engineStep_of_illegal⟩
  have hsel : (w.getLsbD 8 = true → (opField w).toNat = 0x20 ∨ (opField w).toNat = 0x21) ↔
      selField w = 0#1 ∨ (opField w).toNat = 0x20 ∨ (opField w).toNat = 0x21 := by
    rw [selField_eq_zero_iff, ← Bool.not_eq_true, imp_iff_not_or]
  rw [exists_decode_eq_command_iff, exists_decodeOp_eq_command_iff, mbzField_eq_zero_iff, ← hsel]
  exact and_left_comm

end Sys2Proof
end


/-! PROOFS. Which agent a step moves, the polls of a WAIT while a command is pending, and the CMD write (30_encoding.md R125,
R126, R137). -/
section
namespace Sys2Proof.Machine

variable {s : State}

/-! ## Which agent moves -/

/-- The engine moves once its delay has passed, or when no host access is left to come first (30_encoding.md R126). -/
theorem step_eq_engineStep (hbusy : s.busy = true) (h : s.delay = 0 ∨ s.hostQueue = []) : step s = s.engineStep := by
  refine if_pos ?_
  simp [State.engineMoves, hbusy, h]

/-- With nothing pending, or some delay left, the oldest event is performed and one access of the delay passes. -/
theorem step_eq_hostEvent {e : HostEvent} {rest : List HostEvent} (hq : s.hostQueue = e :: rest)
    (h : s.busy = false ∨ s.delay ≠ 0) : step s = { s with hostQueue := rest, delay := s.delay - 1 }.hostEvent e := by
  have hmoves : s.engineMoves = false := by
    rcases h with h | h <;> simp [State.engineMoves, h, hq]
  rw [step, hmoves, State.hostStep, hq]
  rfl

/-- With no event and nothing pending there is nothing to do (log entry 14). -/
theorem step_eq_self (hq : s.hostQueue = []) (hidle : s.busy = false) : step s = .next s := by
  simp [step, State.engineMoves, State.hostStep, hq, hidle]

/-- Settles O4: the engine's step on a command and on an illegal word, and the host's step. -/
theorem stepRunsThePendingCommandOrTheNextHostEvent : Obligations.StepRunsThePendingCommandOrTheNextHostEvent := by
  refine ⟨?_, ?_, ?_, ?_, fun s => step_eq_self⟩
  · intro s i hbusy hmove hi
    rw [step_eq_engineStep hbusy hmove, State.engineStep_of_command hi]
  · intro s hbusy hmove hill
    rw [step_eq_engineStep hbusy hmove, State.engineStep_of_illegal hill]
  · intro s e rest d hq _ hd
    rw [step_eq_hostEvent hq (.inr (by omega)), hd, Nat.add_sub_cancel]
  · intro s e rest hq hidle
    exact step_eq_hostEvent hq (.inl hidle)

/-! ## A WAIT while a command is pending (30_encoding.md R137) -/

/-- A STATUS word read while BUSY = 1: bit 0 is BUSY. -/
def showsBusy (d : BusData) : Prop := ∃ v, d = .d32 v ∧ v.getLsbD 0 = true

/-- One poll: a STATUS read that shows BUSY, one free value drawn, and WAIT stands at the head of the queue again. -/
theorem State.hostWait_busy (hbusy : s.busy = true) :
    ∃ d, showsBusy d ∧ s.hostWait =
      { s with hostQueue := .wait :: s.hostQueue, draws := s.draws + 1, hostReads := s.hostReads ++ [d] } := by
  refine ⟨.d32 (s.statusWith ((Config.busyStreamBits s.draws).extractLsb' 0 2)
    ((Config.busyStreamBits s.draws).extractLsb' 2 1)), ⟨_, rfl, ?_⟩, ?_⟩
  · obtain ⟨hbit, -⟩ := s.statusWith_flags ((Config.busyStreamBits s.draws).extractLsb' 0 2)
      ((Config.busyStreamBits s.draws).extractLsb' 2 1)
    rw [hbit, hbusy]
  · simp [State.hostWait, State.readStatus, hbusy, State.respond]

theorem step_wait {rest : List HostEvent} {d : Nat} (hbusy : s.busy = true) (hq : s.hostQueue = .wait :: rest)
    (hd : s.delay = d + 1) :
    ∃ r, showsBusy r ∧
      step s = .next { s with delay := d, draws := s.draws + 1, hostReads := s.hostReads ++ [r] } := by
  obtain ⟨r, hr, hwait⟩ := State.hostWait_busy (s := { s with hostQueue := rest, delay := s.delay - 1 }) hbusy
  refine ⟨r, hr, ?_⟩
  rw [step_eq_hostEvent hq (.inr (by omega)), State.hostEvent, hwait, ← hq, hd, Nat.add_sub_cancel]

theorem run_succ_of_step {M : Host.Core} {x y : M.State} (k : Nat) (h : M.step x = .next y) :
    M.run (k + 1) x = M.run k y := by
  rw [Host.Core.run, h]

/-- The polls of a WAIT over the whole delay, by induction on it. -/
theorem run_wait {rest : List HostEvent} (d : Nat) (hbusy : s.busy = true) (hq : s.hostQueue = .wait :: rest)
    (hd : s.delay = d) :
    ∃ reads : List BusData, reads.length = d ∧ (∀ r ∈ reads, showsBusy r) ∧
      Host.Core.run Sys2Proof.core d s =
        .next { s with delay := 0, draws := s.draws + d, hostReads := s.hostReads ++ reads } := by
  induction d generalizing s with
  | zero =>
    refine ⟨[], rfl, by simp, ?_⟩
    change Host.Outcome.next s = .next { s with delay := 0, hostReads := s.hostReads ++ [] }
    rw [List.append_nil, ← hd]
  | succ d ih =>
    obtain ⟨r, hr, hstep⟩ := step_wait hbusy hq hd
    obtain ⟨reads, hlen, hreads, hrun⟩ :=
      ih (s := { s with delay := d, draws := s.draws + 1, hostReads := s.hostReads ++ [r] }) hbusy hq rfl
    refine ⟨r :: reads, by rw [List.length_cons, hlen], List.forall_mem_cons.mpr ⟨hr, hreads⟩, ?_⟩
    rw [run_succ_of_step (M := Sys2Proof.core) d hstep, hrun]
    simp [Nat.add_comm, Nat.add_left_comm]

/-- Settles O5, by `run_wait`; with no delay left the engine moves. -/
theorem waitLeadsToTheEngineStep : Obligations.WaitLeadsToTheEngineStep := by
  intro s rest hbusy hq
  obtain ⟨reads, hlen, hreads, hrun⟩ := run_wait s.delay hbusy hq rfl
  exact ⟨reads, _, hlen, rfl, hrun, step_eq_engineStep hbusy (.inl rfl), hreads⟩

/-! ## The CMD write (30_encoding.md R125) -/

/-- CMD is writable busy or not (70_reset_and_hazards.md R390). -/
theorem State.hostWrite_cmd (s : State) (w : Word) : s.hostWrite Reg.cmd.offset (.d32 w) = .next (s.issue w) := by
  simp [State.hostWrite_reg, Reg.writableBusy, State.writeReg]

/-- Settles O22: a CMD write is `issue`, which tests BUSY. -/
theorem cmdWriteIsAcceptedOrDropped : Obligations.CmdWriteIsAcceptedOrDropped := by
  intro s w
  have hwrite : s.hostWrite 0x00C (.d32 w) = .next (s.issue w) := s.hostWrite_cmd w
  refine ⟨fun hidle => ⟨Config.completionDelay s.draws, s.draws + 1, ?_⟩, fun hbusy => ?_⟩
  · rw [hwrite, State.issue, hidle]
    rfl
  · rw [hwrite, State.issue, hbusy]
    rfl

end Sys2Proof.Machine
end


/-! PROOFS. What every command leaves as it was, on success and on error, and the two writes an error may still make
(30_encoding.md R123, R127, R128; 60_exceptions.md R344). -/
section
namespace Sys2Proof.Machine

variable {s t : State}

/-! ## The errors of a command's evaluation -/

/-- Every error of x, with the write it still makes (30_encoding.md R128), is one of P. -/
def Eval.ErrorsIn {α : Type} (P : ErrCode → OnError → Prop) (x : Eval α) : Prop := ∀ e w, x = .err e w → P e w

section
variable {α β : Type} {P : ErrCode → OnError → Prop}

theorem Eval.ErrorsIn.ok {a : α} : (Eval.ok a).ErrorsIn P := fun _ _ h => nomatch h

theorem Eval.ErrorsIn.err {e : ErrCode} {w : OnError} (h : P e w) : (Eval.err e w : Eval α).ErrorsIn P := by
  rintro e' w' ⟨⟩
  exact h

theorem Eval.ErrorsIn.check {c : Prop} [Decidable c] {e : ErrCode} {k : Eval α} (he : P e .nothing) (hk : k.ErrorsIn P) :
    (Eval.check c e k).ErrorsIn P := by
  intro e' w h
  rcases Eval.check_eq_err.mp h with ⟨-, rfl, rfl⟩ | ⟨-, h⟩
  · exact he
  · exact hk e' w h

theorem Eval.ErrorsIn.checkWarn {c : Prop} [Decidable c] {e : ErrCode} {b : Bool} {k : Eval α} (he : P e (.ofWarn b))
    (hk : k.ErrorsIn P) : (Eval.checkWarn c e b k).ErrorsIn P := by
  intro e' w h
  rcases Eval.checkWarn_eq_err.mp h with ⟨-, rfl, rfl⟩ | ⟨-, h⟩
  · exact he
  · exact hk e' w h

theorem Eval.ErrorsIn.bind {x : Eval α} {f : α → Eval β} (hx : x.ErrorsIn P)
    (hf : ∀ a, x = .ok a → (f a).ErrorsIn P) : (x.bind f).ErrorsIn P := by
  intro e w h
  rcases Eval.bind_eq_err.mp h with h | ⟨a, ha, h⟩
  · exact hx e w h
  · exact hf a ha e w h

theorem Eval.ErrorsIn.ite {c : Prop} [Decidable c] {x y : Eval α} (hx : x.ErrorsIn P) (hy : y.ErrorsIn P) :
    (if c then x else y).ErrorsIn P := by
  split
  · exact hx
  · exact hy

theorem State.memByte_errorsIn {a : Nat} : (s.memByte a).ErrorsIn P := fun _ _ h => absurd h State.memByte_ne_err

theorem State.memRead_errorsIn {a n : Nat} : (s.memRead a n).ErrorsIn P := fun _ _ h => absurd h State.memRead_ne_err

/-- A command fails by error entry, after one of its evaluation's errors (60_exceptions.md R344). -/
theorem State.finish_error {r : Eval State} (h : s.finish r = .next t) (ht : t.err = true) (hr : r.ErrorsIn P) :
    ∃ e w, P e w ∧ t = (s.onError w).raise e := by
  rcases State.finish_eq_next.mp h with ⟨u, -, rfl⟩ | ⟨e, w, he, rfl⟩
  · exact absurd ht (by simp)
  · exact ⟨e, w, hr e w he, rfl⟩

/-! ## The errors of the shared operations -/

section
variable (hP : ∀ e, P e .nothing)
include hP

theorem State.framePrologue_errorsIn {a : Nat} {full : Bool} : (s.framePrologue a full).ErrorsIn P := by
  intro e w h
  obtain ⟨rfl, -⟩ := State.framePrologue_err h
  exact hP e

theorem State.payloadByte_errorsIn {k : Nat} : (s.payloadByte k).ErrorsIn P :=
  .bind (State.framePrologue_errorsIn hP) fun _ _ => .check (hP _) <| .check (hP _) <|
    .bind State.memByte_errorsIn fun _ _ => .ok

theorem State.copyFrame_errorsIn {len : Nat} : (s.copyFrame len).ErrorsIn P :=
  .check (hP _) <| .bind State.memRead_errorsIn fun _ _ => .ok

theorem State.xorPass_errorsIn {pass : Nat → List Byte → List Byte} : (s.xorPass pass).ErrorsIn P :=
  .bind (State.framePrologue_errorsIn hP) fun _ _ => .bind State.memRead_errorsIn fun _ _ => .ok

/-! ## A checksum is tolerated only under ACCEPT_BAD_CSUM (42_simple_modulus.md R220) -/

variable (hW : s.acceptBadCsum = true → ∀ e, P e .warn)
include hW

theorem onError_ofWarn_of_accepted {warn : Bool} (hwarn : warn = true → s.acceptBadCsum = true) (e : ErrCode) :
    P e (.ofWarn warn) := by
  cases warn with
  | false => exact hP e
  | true => exact hW (hwarn rfl) e

theorem State.checkBlock_errorsIn {warn : Bool} {p : Plain} (hwarn : warn = true → s.acceptBadCsum = true) :
    (s.checkBlock warn p).ErrorsIn P := by
  intro e w h
  rcases State.checkBlock_eq_err.mp h with ⟨-, -, -, rfl⟩ | ⟨hpolicy, -, -, rfl⟩
  · exact onError_ofWarn_of_accepted hP hW hwarn e
  · refine onError_ofWarn_of_accepted hP hW (fun hw => ?_) e
    rcases Bool.or_eq_true_iff.mp hw with hw | hbad
    · exact hwarn hw
    · exact hpolicy.resolve_left (by simpa using hbad)

end

theorem State.checkBlock_warn_of_accepted {warn w : Bool} {p : Plain} (hwarn : warn = true → s.acceptBadCsum = true)
    (h : s.checkBlock warn p = .ok w) : w = true → s.acceptBadCsum = true := by
  obtain ⟨⟨hpolicy, -⟩, rfl⟩ := State.checkBlock_eq_ok.mp h
  intro hw
  rcases Bool.or_eq_true_iff.mp hw with hw | hbad
  · exact hwarn hw
  · exact hpolicy.resolve_left (by simpa using hbad)

theorem State.decodeBlocks_warn_of_accepted {k a : Nat} {warn : Bool} {r : List Byte × Bool}
    (hwarn : warn = true → s.acceptBadCsum = true) (h : s.decodeBlocks k a warn = .ok r) :
    r.2 = true → s.acceptBadCsum = true := by
  induction k generalizing a warn r with
  | zero =>
    cases h
    exact hwarn
  | succ k ih =>
    simp only [State.decodeBlocks, Eval.bind_eq_ok, Eval.ok.injEq] at h
    obtain ⟨eb, -, warn', hcheck, rest, hrest, rfl⟩ := h
    have hlast := ih (State.checkBlock_warn_of_accepted hwarn hcheck) hrest
    exact hlast

theorem State.decodeBlocks_errorsIn (hP : ∀ e, P e .nothing) (hW : s.acceptBadCsum = true → ∀ e, P e .warn) {k a : Nat}
    {warn : Bool} (hwarn : warn = true → s.acceptBadCsum = true) : (s.decodeBlocks k a warn).ErrorsIn P := by
  induction k generalizing a warn with
  | zero => exact .ok
  | succ k ih =>
    exact .bind State.memRead_errorsIn fun _ _ => .bind (State.checkBlock_errorsIn hP hW hwarn) fun _ hcheck =>
      .bind (ih (State.checkBlock_warn_of_accepted hwarn hcheck)) fun _ _ => .ok

end

/-! ## The errors of each command -/

/-- The errors of STRNEXT that end the stream (45_stream_reader.md R303). -/
def framingError (i : Instr) (e : ErrCode) : Prop :=
  i = .strnext ∧ (e = .invalidHeaderMarker ∨ e = .invalidLength)

/-- The writes that take effect on an error e of command i (30_encoding.md R128). -/
def errorWrites (i : Instr) (s : State) (e : ErrCode) : OnError → Prop
  | .nothing => ¬ framingError i e
  | .terminate => framingError i e
  | .warn => (i = .smdecb ∨ i = .smdecf) ∧ s.acceptBadCsum = true

theorem errorWrites_nothing {i : Instr} (hi : i ≠ .strnext) (e : ErrCode) : errorWrites i s e .nothing :=
  fun h => hi h.1

theorem strnext_errors (h : exec .strnext s = .next t) (ht : t.err = true) :
    ∃ e w, errorWrites .strnext s e w ∧ t = (s.onError w).raise e := by
  refine State.finish_error h ht (.check (by simp [errorWrites, framingError]) ?_)
  cases streamHead s.sb with
  | badMarker => exact .err ⟨rfl, .inl rfl⟩
  | badLength => exact .err ⟨rfl, .inr rfl⟩
  | frame len => exact .check (by simp [errorWrites, framingError]) .ok
  | incomplete => exact .ok

theorem smdecb_errors (h : exec .smdecb s = .next t) (ht : t.err = true) :
    ∃ e w, errorWrites .smdecb s e w ∧ t = (s.onError w).raise e := by
  have hP := errorWrites_nothing (s := s) (i := .smdecb) (by simp)
  refine State.finish_error h ht (.check (hP _) <| .check (hP _) <| .check (hP _) <|
    .bind State.memRead_errorsIn fun _ _ => .bind (State.checkBlock_errorsIn hP ?_ nofun) fun _ _ => .ok)
  exact fun haccept _ => ⟨.inl rfl, haccept⟩

theorem smdecf_errors (h : exec .smdecf s = .next t) (ht : t.err = true) :
    ∃ e w, errorWrites .smdecf s e w ∧ t = (s.onError w).raise e := by
  have hP := errorWrites_nothing (s := s) (i := .smdecf) (by simp)
  have hW (haccept : s.acceptBadCsum = true) (e : ErrCode) : errorWrites .smdecf s e .warn := ⟨.inr rfl, haccept⟩
  refine State.finish_error h ht (.bind (State.framePrologue_errorsIn hP) fun p _ =>
    .ite (State.copyFrame_errorsIn hP) <| .check (hP _) <| .check (hP _) <|
    .bind (State.decodeBlocks_errorsIn hP hW nofun) fun r hr => ?_)
  have hwarn := onError_ofWarn_of_accepted hP hW (State.decodeBlocks_warn_of_accepted (warn := false) nofun hr)
  exact .checkWarn (hwarn _) <| .checkWarn (hwarn _) .ok

/-- A command that fails takes error entry, with no write besides STATUS but those of 30_encoding.md R128. -/
theorem exec_errors {i : Instr} (h : exec i s = .next t) (ht : t.err = true) :
    ∃ e w, errorWrites i s e w ∧ t = (s.onError w).raise e := by
  have hP (hi : i ≠ .strnext) := errorWrites_nothing (s := s) hi
  cases i with
  | nop | ctrinc | ctrrst | strclose | strreset => exact State.finish_error (r := .ok _) h ht .ok
  | hdrsize =>
    exact State.finish_error h ht (.check (hP nofun _) <| .bind State.memByte_errorsIn fun _ _ => .ok)
  | declen =>
    exact State.finish_error h ht (.check (hP nofun _) <| .bind State.memByte_errorsIn fun _ _ =>
      .bind State.memByte_errorsIn fun _ _ => .bind State.memByte_errorsIn fun _ _ => .ok)
  | pkttype | pktsub => exact State.finish_error h ht (State.payloadByte_errorsIn (hP nofun))
  | wrhdr =>
    exact State.finish_error h ht (.check (hP nofun _) <| .check (hP nofun _) <| .check (hP nofun _) .ok)
  | encsize | decsize =>
    exact State.finish_error h ht (.bind (State.framePrologue_errorsIn (hP nofun)) fun _ _ =>
      .ite .ok (.check (hP nofun _) .ok))
  | shift =>
    exact State.finish_error h ht (.ite (.check (hP nofun _) <| .check (hP nofun _) <|
      .bind State.memRead_errorsIn fun _ _ => .bind State.memRead_errorsIn fun _ _ => .ok) .ok)
  | smencb =>
    exact State.finish_error h ht (.check (hP nofun _) <| .check (hP nofun _) <| .check (hP nofun _) <|
      .check (hP nofun _) <| .bind State.memRead_errorsIn fun _ _ => .ok)
  | smdecb => exact smdecb_errors h ht
  | smencf =>
    exact State.finish_error h ht (.bind (State.framePrologue_errorsIn (hP nofun)) fun _ _ =>
      .ite (State.copyFrame_errorsIn (hP nofun)) <| .check (hP nofun _) <| .check (hP nofun _) <|
      .check (hP nofun _) <| .bind State.memRead_errorsIn fun _ _ => .ok)
  | smdecf => exact smdecf_errors h ht
  | xorenc | xordec => exact State.finish_error h ht (State.xorPass_errorsIn (hP nofun))
  | strfeed =>
    exact State.finish_error h ht (.check (hP nofun _) <| .check (hP nofun _) <| .check (hP nofun _) <|
      .bind State.memRead_errorsIn fun _ _ => .ok)
  | strnext => exact strnext_errors h ht

/-! ## What no command writes -/

/-- The parameters, CTRL, OVERRUN, the operands, the keys, PENDING, the counters' windows and the model's own fields are
those of s (30_encoding.md R123, R127). -/
def keepsOperands (s t : State) : Prop :=
  t.params = s.params ∧ t.acceptBadCsum = s.acceptBadCsum ∧ t.overrun = s.overrun ∧
  (t.src = s.src ∧ t.dst = s.dst ∧ t.len = s.len ∧ t.arg0 = s.arg0 ∧ t.arg1 = s.arg1) ∧
  (t.ekey = s.ekey ∧ t.dkey = s.dkey ∧ t.xkeyw = s.xkeyw) ∧ t.pending = s.pending ∧
  (t.ectr.min = s.ectr.min ∧ t.ectr.max = s.ectr.max ∧ t.dctr.min = s.dctr.min ∧ t.dctr.max = s.dctr.max) ∧
  t.delay = s.delay ∧ t.draws = s.draws ∧ t.hostQueue = s.hostQueue ∧ t.hostReads = s.hostReads

theorem keepsOperands.refl (s : State) : keepsOperands s s := by
  simp [keepsOperands]

/-- Error entry, with either of R128's writes, keeps them. -/
theorem keepsOperands_raise_onError (s : State) (e : ErrCode) (w : OnError) :
    keepsOperands s ((s.onError w).raise e) := by
  cases w <;> exact keepsOperands.refl s

/-- What a success of command i leaves as it was: the operands and keys, ERRACC, CSUM_WARN but for the decoding commands,
and SB but for the three commands of the stream that write it. -/
def successFrame (i : Instr) (s t : State) : Prop :=
  keepsOperands s t ∧ t.errAcc = s.errAcc ∧ (i ≠ .smdecb → i ≠ .smdecf → t.csumWarn = s.csumWarn) ∧
    (i ≠ .strfeed → i ≠ .strnext → i ≠ .strreset → t.sb = s.sb)

namespace successFrame

variable {i : Instr}

theorem refl : successFrame i s s := ⟨keepsOperands.refl s, rfl, fun _ _ => rfl, fun _ _ _ => rfl⟩

theorem withResults {r0 r1 : Nat} (hs : successFrame i s t) : successFrame i s (t.withResults r0 r1) := hs

theorem memWrite {a : Nat} {bs : List Byte} (hs : successFrame i s t) : successFrame i s (t.memWrite a bs) := hs

theorem completeOk (hs : successFrame i s t) : successFrame i s t.completeOk := hs

theorem withSstate {st : StreamState} (hs : successFrame i s t) : successFrame i s { t with sstate := st } := hs

theorem withSb {sb : List Byte} (hi : i = .strfeed ∨ i = .strnext ∨ i = .strreset) (hs : successFrame i s t) :
    successFrame i s { t with sb := sb } := by
  obtain ⟨hkeeps, hacc, hwarn, -⟩ := hs
  refine ⟨hkeeps, hacc, hwarn, fun hfeed hnext hreset => ?_⟩
  rcases hi with hi | hi | hi
  · exact absurd hi hfeed
  · exact absurd hi hnext
  · exact absurd hi hreset

theorem addWarn {warn : Bool} (hi : i = .smdecb ∨ i = .smdecf) (hs : successFrame i s t) :
    successFrame i s (t.addWarn warn) := by
  obtain ⟨hkeeps, hacc, -, hsb⟩ := hs
  exact ⟨hkeeps, hacc, fun hb hf => absurd hi (not_or.mpr ⟨hb, hf⟩), hsb⟩

/-- A counter's new value, in the window of the old one, keeps the window (40_counter.md R160, R161). -/
theorem setCounter {sel : CtrSel} {c : Counter} (hmin : c.min = (s.counter sel).min)
    (hmax : c.max = (s.counter sel).max) (hs : successFrame i s t) : successFrame i s (t.setCounter sel c) := by
  obtain ⟨⟨hparams, hctrl, hover, hops, hkeys, hpending, ⟨hemin, hemax, hdmin, hdmax⟩, hown⟩, hrest⟩ := hs
  cases sel with
  | ectr => exact ⟨⟨hparams, hctrl, hover, hops, hkeys, hpending, ⟨hmin, hmax, hdmin, hdmax⟩, hown⟩, hrest⟩
  | dctr => exact ⟨⟨hparams, hctrl, hover, hops, hkeys, hpending, ⟨hemin, hemax, hmin, hmax⟩, hown⟩, hrest⟩

theorem of_payloadByte {k : Nat} {u : State} (h : s.payloadByte k = .ok u) : successFrame i s u := by
  obtain ⟨p, -, -, -, b, -, rfl⟩ := State.payloadByte_eq_ok.mp h
  exact .withResults .refl

theorem of_copyFrame {len : Nat} {u : State} (h : s.copyFrame len = .ok u) : successFrame i s u := by
  obtain ⟨-, f, -, rfl⟩ := State.copyFrame_eq_ok.mp h
  exact .withResults <| .memWrite .refl

theorem of_xorPass {pass : Nat → List Byte → List Byte} {u : State} (h : s.xorPass pass = .ok u) :
    successFrame i s u := by
  obtain ⟨p, -, f, -, rfl⟩ := State.xorPass_eq_ok.mp h
  exact .withResults <| .memWrite .refl

end successFrame

theorem exec_successFrame {i : Instr} (h : exec i s = .next t) (ht : t.err = false) : successFrame i s t := by
  cases i with
  | nop =>
    cases h.symm.trans (exec_nop s)
    exact .completeOk .refl
  | hdrsize =>
    obtain ⟨-, m, -, rfl⟩ := hdrsize_success h ht
    exact .completeOk <| .withResults .refl
  | declen =>
    obtain ⟨-, b0, b1, b2, -, -, -, rfl⟩ := declen_success h ht
    exact .completeOk <| .withResults .refl
  | pkttype =>
    obtain ⟨u, hu, rfl⟩ := pkttype_success h ht
    exact .completeOk <| .of_payloadByte hu
  | pktsub =>
    obtain ⟨u, hu, rfl⟩ := pktsub_success h ht
    exact .completeOk <| .of_payloadByte hu
  | wrhdr =>
    obtain ⟨-, -, -, rfl⟩ := wrhdr_success h ht
    exact .completeOk <| .withResults <| .memWrite .refl
  | encsize =>
    obtain ⟨p, -, ⟨-, rfl⟩ | ⟨-, -, rfl⟩⟩ := encsize_success h ht <;> exact .completeOk <| .withResults .refl
  | decsize =>
    obtain ⟨p, -, ⟨-, rfl⟩ | ⟨-, -, rfl⟩⟩ := decsize_success h ht <;> exact .completeOk <| .withResults .refl
  | shift =>
    obtain ⟨-, -, -, src, dst, -, -, -, -, rfl⟩ | ⟨-, rfl⟩ := shift_success h ht
    · exact .completeOk <| .withResults <| .memWrite .refl
    · exact .completeOk <| .withResults .refl
  | smencb =>
    obtain ⟨-, -, -, -, b, -, -, rfl⟩ := smencb_success h ht
    exact .completeOk <| .withResults <| .memWrite .refl
  | smdecb =>
    obtain ⟨-, -, -, eb, p, -, -, -, -, rfl⟩ := smdecb_success h ht
    exact .completeOk <| .addWarn (.inl rfl) <| .withResults <| .memWrite .refl
  | smencf =>
    obtain ⟨p, -, ⟨-, u, hu, rfl⟩ | ⟨-, -, -, -, payload, -, -, rfl⟩⟩ := smencf_success h ht
    · exact .completeOk <| .of_copyFrame hu
    · exact .completeOk <| .setCounter rfl rfl <| .withResults <| .memWrite .refl
  | smdecf =>
    obtain ⟨p, -, ⟨-, u, hu, rfl⟩ | ⟨-, -, -, c, warn, -, -, -, rfl⟩⟩ := smdecf_success h ht
    · exact .completeOk <| .of_copyFrame hu
    · exact .completeOk <| .addWarn (.inr rfl) <| .setCounter rfl rfl <| .withResults <| .memWrite .refl
  | xorenc =>
    obtain ⟨u, hu, rfl⟩ := xorenc_success h ht
    exact .completeOk <| .of_xorPass hu
  | xordec =>
    obtain ⟨u, hu, rfl⟩ := xordec_success h ht
    exact .completeOk <| .of_xorPass hu
  | ctrinc sel =>
    cases h.symm.trans (exec_ctrinc sel s)
    exact .completeOk <| .withResults <| .setCounter rfl rfl .refl
  | ctrrst sel =>
    cases h.symm.trans (exec_ctrrst sel s)
    exact .completeOk <| .withResults <| .setCounter rfl rfl .refl
  | strfeed =>
    obtain ⟨-, -, -, bs, -, -, rfl⟩ := strfeed_success h ht
    exact .completeOk <| .withResults <| .withSb (.inl rfl) .refl
  | strnext =>
    obtain ⟨-, ⟨len, -, -, rfl⟩ | ⟨rest, -, -, rfl⟩⟩ := strnext_success h ht
    · exact .completeOk <| .withResults <| .withSb (.inr (.inl rfl)) <| .memWrite .refl
    · exact .completeOk <| .withResults <| .withSb (.inr (.inl rfl)) .refl
  | strclose =>
    cases h.symm.trans (exec_strclose s)
    exact .completeOk <| .withResults <| .withSstate .refl
  | strreset =>
    cases h.symm.trans (exec_strreset s)
    exact .completeOk <| .withResults <| .withSstate (t := { s with sb := [] }) <| .withSb (.inr (.inr rfl)) .refl

/-! ## The statements -/

/-- What a command leaves as it was, whether it succeeds or fails: an error writes SSTATE or CSUM_WARN at most. -/
theorem exec_frame {i : Instr} (h : exec i s = .next t) :
    keepsOperands s t ∧ (i ≠ .smdecb → i ≠ .smdecf → t.csumWarn = s.csumWarn) ∧
      (i ≠ .strfeed → i ≠ .strnext → i ≠ .strreset → t.sb = s.sb) := by
  cases ht : t.err with
  | false =>
    obtain ⟨hkeeps, -, hwarn, hsb⟩ := exec_successFrame h ht
    exact ⟨hkeeps, hwarn, hsb⟩
  | true =>
    obtain ⟨e, w, hw, rfl⟩ := exec_errors h ht
    refine ⟨keepsOperands_raise_onError s e w, fun hb hf => ?_, fun _ _ _ => ?_⟩
    · cases w with
      | nothing | terminate => rfl
      | warn =>
        obtain ⟨rfl | rfl, -⟩ := hw
        · exact absurd rfl hb
        · exact absurd rfl hf
    · cases w <;> rfl

/-- Settles O13, from `exec_frame`; NOP writes no result. -/
theorem commandsLeaveOperandsAndKeysAlone : Obligations.CommandsLeaveOperandsAndKeysAlone := by
  intro i s t h
  obtain ⟨⟨hparams, hctrl, hover, ⟨hsrc, hdst, hlen, harg0, harg1⟩, ⟨hekey, hdkey, hxkeyw⟩, hpending,
    ⟨hemin, hemax, hdmin, hdmax⟩, hdelay, hdraws, hqueue, hreads⟩, hwarn, hsb⟩ := exec_frame h
  refine ⟨hparams, hctrl, hover, hsrc, hdst, hlen, harg0, harg1, hekey, hdkey, hxkeyw, hpending, hemin, hemax, hdmin,
    hdmax, hdelay, hdraws, hqueue, hreads, ?_, hwarn, hsb⟩
  rintro rfl
  cases h.symm.trans (exec_nop s)
  exact ⟨rfl, rfl⟩

/-- Settles O11: success clears ERR and keeps ERRACC, and of the writes an error may make each is one of R128's. -/
theorem endedCommandsClearBusyAndErrorsArePrecise : Obligations.EndedCommandsClearBusyAndErrorsArePrecise := by
  intro i s t h
  cases ht : t.err with
  | false =>
    obtain ⟨r, hr⟩ := exec_eq_finish i s
    obtain ⟨-, hacc, -, -⟩ := exec_successFrame h ht
    obtain ⟨u, -, rfl⟩ := State.finish_success (hr ▸ h) ht
    exact ⟨rfl, rfl, .inl ⟨rfl, rfl, hacc⟩⟩
  | true =>
    obtain ⟨-, hcode, -⟩ := exec_statusOk h
    have hne := hcode.mp ht
    obtain ⟨e, w, hw, rfl⟩ := exec_errors h ht
    refine ⟨rfl, rfl, .inr ⟨rfl, hne, ?_⟩⟩
    cases w with
    | nothing => exact ⟨rfl, .inl rfl, fun hframing => absurd hframing hw, .inl rfl⟩
    | terminate =>
      obtain ⟨hi, he⟩ := hw
      exact ⟨rfl, .inr ⟨hi, rfl, he⟩, fun _ => rfl, .inl rfl⟩
    | warn =>
      obtain ⟨hi, haccept⟩ := hw
      refine ⟨rfl, .inl rfl, fun hframing => ?_, .inr ⟨hi, haccept, rfl⟩⟩
      obtain ⟨rfl, -⟩ := hframing
      exact absurd hi (by simp)

end Sys2Proof.Machine
end


/-! PROOFS. Frame headers: their sizes and declared lengths, and the checks of FramePrologue in their order
(30_encoding.md R129, R130, R132). -/
section
namespace Sys2Proof.Machine

variable {s : State}

/-! ## Header sizes and declared lengths -/

theorem declaredLength_of_short {b0 : Byte} (b1 b2 : Byte) (h : headerSize b0 = 2) : declaredLength b0 b1 b2 = b1.toNat :=
  if_pos h

/-- The declared length of a long header is big-endian (30_encoding.md R130). -/
theorem declaredLength_of_long {b0 : Byte} (b1 b2 : Byte) (h : headerSize b0 = 3) :
    declaredLength b0 b1 b2 = (b1.toNat <<< 8) ||| b2.toNat := by
  rw [← Nat.shiftLeft_add_eq_or_of_lt b2.isLt, Nat.shiftLeft_eq]
  simp [declaredLength, h]

theorem declaredLength_of_none {b0 : Byte} (b1 b2 : Byte) (h : headerSize b0 = 0) : declaredLength b0 b1 b2 = 0 := by
  simp [declaredLength, h]

/-- Settles O29, from the markers of each header size. -/
theorem headerSizeAndDeclaredLength : Obligations.HeaderSizeAndDeclaredLength := by
  refine ⟨fun m => ⟨(headerSize_eq_two_iff m).mpr, (headerSize_eq_three_iff m).mpr, ?_, plainMarker_eq_true⟩,
    fun b0 b1 b2 => ⟨declaredLength_of_short b1 b2, declaredLength_of_long b1 b2, declaredLength_of_none b1 b2⟩⟩
  intro h1 h2 h3 h4
  simp [headerSize, h1, h2, h3, h4]

/-! ## FramePrologue, as far as its reads get -/

section
variable {a : Nat} {full : Bool} {m : Byte}

/-- The marker read: what is left is the header's check and reads. -/
theorem State.framePrologue_of_marker (hr : s.inBuf a 1) (hm : s.buf.read a = some m) (hh : headerSize m ≠ 0) :
    s.framePrologue a full =
      Eval.check (s.inBuf a (headerSize m)) .bufRange
        ((s.memByte (a + 1)).bind fun b1 =>
        (if headerSize m = 3 then s.memByte (a + 2) else .ok 0#8).bind fun b2 =>
        Eval.check (declaredLength m b1 b2 ≠ 0) .invalidHeaderMarker <|
        Eval.check (headerSize m ≤ declaredLength m b1 b2) .invalidLength <|
        Eval.check (full = true → s.inBuf a (declaredLength m b1 b2)) .bufRange <|
        .ok { m := m, h := headerSize m, len := declaredLength m b1 b2 }) := by
  rw [State.framePrologue, Eval.check_pos hr, State.memByte_of_some hm, Eval.bind_ok, Eval.check_pos hh]

/-- The header read: what is left is the checks on its length. b2 is free for a short header, which does not read it. -/
theorem State.framePrologue_of_header (hr : s.inBuf a 1) (hm : s.buf.read a = some m) (hh : headerSize m ≠ 0)
    (hin : s.inBuf a (headerSize m)) {b1 b2 : Byte} (h1 : s.buf.read (a + 1) = some b1)
    (h2 : headerSize m = 3 → s.buf.read (a + 2) = some b2) :
    s.framePrologue a full =
      Eval.check (declaredLength m b1 b2 ≠ 0) .invalidHeaderMarker
        (Eval.check (headerSize m ≤ declaredLength m b1 b2) .invalidLength <|
        Eval.check (full = true → s.inBuf a (declaredLength m b1 b2)) .bufRange <|
        .ok { m := m, h := headerSize m, len := declaredLength m b1 b2 }) := by
  rw [State.framePrologue_of_marker hr hm hh, Eval.check_pos hin, State.memByte_of_some h1, Eval.bind_ok]
  obtain h3 | hshort : headerSize m = 3 ∨ headerSize m = 2 := ((headerSize_cases m).resolve_left hh).symm
  · rw [if_pos h3, State.memByte_of_some (h2 h3), Eval.bind_ok]
  · rw [if_neg (by omega), Eval.bind_ok, declaredLength_of_short b1 0#8 hshort, declaredLength_of_short b1 b2 hshort]

/-- An unwritten byte of the header, after a marker that was read, is the fault of its read. -/
theorem State.framePrologue_of_unwritten (hr : s.inBuf a 1) (hm : s.buf.read a = some m) (hh : headerSize m ≠ 0)
    (hin : s.inBuf a (headerSize m)) (hu : unwrittenIn s.buf a (headerSize m)) :
    s.framePrologue a full = .fault .unwrittenRead := by
  rw [State.framePrologue_of_marker hr hm hh, Eval.check_pos hin]
  obtain ⟨j, hj, hnone⟩ := hu
  have hj0 : j ≠ 0 := by
    rintro rfl
    rw [Nat.add_zero, hm] at hnone
    cases hnone
  cases h1 : s.buf.read (a + 1) with
  | none => rw [State.memByte_of_none h1, Eval.bind_fault]
  | some b1 =>
    have hj1 : j ≠ 1 := by
      rintro rfl
      rw [h1] at hnone
      cases hnone
    obtain ⟨h3, rfl⟩ : headerSize m = 3 ∧ j = 2 := by
      have := headerSize_cases m
      omega
    rw [State.memByte_of_some h1, Eval.bind_ok, if_pos h3, State.memByte_of_none hnone, Eval.bind_fault]

end

/-- Settles O32: the checks in order, each from the stage of FramePrologue it stands in. -/
theorem framePrologueChecksInOrder : Obligations.FramePrologueChecksInOrder := by
  intro s a full
  refine ⟨fun hout => ?_, fun hr hnone => ?_, fun m hr hm => ⟨fun h0 => ?_, fun hh hout => ?_,
    fun hh hin hu => State.framePrologue_of_unwritten hr hm hh hin hu, ?_⟩⟩
  · rw [State.framePrologue, Eval.check_neg hout.not_ge]
  · rw [State.framePrologue, Eval.check_pos hr, State.memByte_of_none hnone, Eval.bind_fault]
  · rw [State.framePrologue, Eval.check_pos hr, State.memByte_of_some hm, Eval.bind_ok, Eval.check_neg (not_not.mpr h0)]
  · rw [State.framePrologue_of_marker hr hm hh, Eval.check_neg hout.not_ge]
  · intro b1 b2 hh hin h1 h2
    rw [State.framePrologue_of_header hr hm hh hin h1 h2]
    refine ⟨fun h0 => ?_, fun h0 hlt => ?_, fun hle hfull hout => ?_, fun hle hin => ?_⟩
    · rw [Eval.check_neg (not_not.mpr h0)]
    · rw [Eval.check_pos h0, Eval.check_neg hlt.not_ge]
    · rw [Eval.check_pos (by omega), Eval.check_pos hle, Eval.check_neg fun h => (h hfull).not_gt hout]
    · rw [Eval.check_pos (by omega), Eval.check_pos hle, Eval.check_pos fun hfull => ?_]
      exact hin.resolve_left (by simp [hfull])

end Sys2Proof.Machine
end


/-! PROOFS. The layout of an encrypted block (30_encoding.md R134) and SMENCF of an encrypted frame (R133;
42_simple_modulus.md R216). -/
section
namespace Sys2Proof.Machine

/-! ## The layout of an encrypted block -/

/-- Bit p of the byte string, in bit-stream order, is bit 87 - p of the number. -/
theorem bitAt_bytesOfBits (v : BitVec 88) {p : Nat} (hp : p < 88) : bitAt (bytesOfBits v) p = v.getLsbD (87 - p) := by
  have hbyte : p / 8 < 11 := by omega
  have hbit : 80 - 8 * (p / 8) + (7 - p % 8) = 87 - p := by omega
  have hlt : 7 - p % 8 < 8 := by omega
  simp [bitAt, bytesOfBits, hbyte, hbit, hlt]

section
variable (r : Quad) (s x : Byte)

/-- The ring groups stand from the top, 18 bits each. -/
theorem extractLsb'_packBits_group {i : Nat} {w : Word} (hw : [r.w0, r.w1, r.w2, r.w3][i]? = some w) :
    (packBits r s x).extractLsb' (70 - 18 * i) 18 = ringGroup w := by
  match i, hw with
  | 0, hw | 1, hw | 2, hw | 3, hw =>
    cases hw
    simp (disch := decide) only [packBits, BitVec.extractLsb'_append_eq_of_le, Nat.reduceMul, Nat.reduceSub,
      BitVec.extractLsb'_append_eq_right, BitVec.extractLsb'_eq_self]

/-- Bit q of the ring group of word i, counted from the group's first bit in bit-stream order. -/
theorem bitAt_packBlock_group {i q : Nat} {w : Word} (hw : [r.w0, r.w1, r.w2, r.w3][i]? = some w) (hq : q < 18) :
    bitAt (packBlock r s x) (18 * i + q) = (ringGroup w).getLsbD (17 - q) := by
  have hi : i < 4 := (List.getElem?_eq_some_iff.mp hw).1
  have hpos : 70 - 18 * i + (17 - q) = 87 - (18 * i + q) := by omega
  rw [packBlock, bitAt_bytesOfBits _ (by omega), ← extractLsb'_packBits_group r s x hw, BitVec.getLsbD_extractLsb', hpos,
    decide_eq_true (by omega), Bool.true_and]

theorem bitAt_packBlock_size {j : Nat} (hj : j < 8) : bitAt (packBlock r s x) (72 + j) = s.getLsbD (7 - j) := by
  have hsub : 87 - (72 + j) - 8 = 7 - j := by omega
  rw [packBlock, bitAt_bytesOfBits _ (by omega), packBits, BitVec.getLsbD_append, if_neg (by omega),
    BitVec.getLsbD_append, if_pos (by omega), hsub]

theorem bitAt_packBlock_checksum {j : Nat} (hj : j < 8) : bitAt (packBlock r s x) (80 + j) = x.getLsbD (7 - j) := by
  have hsub : 87 - (80 + j) = 7 - j := by omega
  rw [packBlock, bitAt_bytesOfBits _ (by omega), packBits, BitVec.getLsbD_append, if_pos (by omega), hsub]

end

/-- A ring group from its top bit: RING bits 7..0, then 15..8, then 17, then 16 (30_encoding.md R134). -/
theorem getLsbD_ringGroup (w : Word) :
    (∀ j, j < 8 → (ringGroup w).getLsbD (17 - j) = w.getLsbD (7 - j)) ∧
    (∀ j, j < 8 → (ringGroup w).getLsbD (17 - (8 + j)) = w.getLsbD (15 - j)) ∧
    (ringGroup w).getLsbD 1 = w.getLsbD 17 ∧ (ringGroup w).getLsbD 0 = w.getLsbD 16 := by
  simp only [ringGroup, BitVec.getLsbD_append, BitVec.getLsbD_extractLsb']
  refine ⟨fun j hj => ?_, fun j hj => ?_, by simp, by simp⟩
  · have hsub : 17 - j - 1 - 1 - 8 = 7 - j := by omega
    have hlt : 7 - j < 8 := by omega
    rw [if_neg (by omega), if_neg (by omega), if_neg (by omega), hsub, decide_eq_true hlt, Nat.zero_add, Bool.true_and]
  · have hsub : 17 - (8 + j) - 1 - 1 = 7 - j := by omega
    have hadd : 8 + (7 - j) = 15 - j := by omega
    have hlt : 7 - j < 8 := by omega
    rw [if_neg (by omega), if_neg (by omega), hsub, if_pos hlt, hadd, decide_eq_true hlt, Bool.true_and]

/-- Settles O41: where each group and byte stands, and the order of the bits in a group. -/
theorem packPlacesEveryBit : Obligations.PackPlacesEveryBit := by
  intro r s x
  refine ⟨length_packBlock r s x, fun i w hw => ?_, fun j => bitAt_packBlock_size r s x,
    fun j => bitAt_packBlock_checksum r s x⟩
  obtain ⟨hlow, hhigh, h17, h16⟩ := getLsbD_ringGroup w
  refine ⟨fun j hj => ?_, fun j hj => ?_, ?_, ?_⟩
  · rw [bitAt_packBlock_group r s x hw (by omega), hlow j hj]
  · rw [Nat.add_assoc, bitAt_packBlock_group r s x hw (by omega), hhigh j hj]
  · rw [bitAt_packBlock_group r s x hw (by omega), h17]
  · rw [bitAt_packBlock_group r s x hw (by omega), h16]

/-! ## SMENCF of an encrypted frame -/

/-- The blocks of a content are encrypted one by one: each but the last holds 8 bytes (30_encoding.md R133). -/
theorem encodeBlocks_flatten (o : MixOrder) (key : KeySet) (blocks : List (List Byte))
    (hfull : ∀ b ∈ blocks.dropLast, b.length = 8) (hle : ∀ b ∈ blocks, b.length ≤ 8) :
    encodeBlocks o key blocks.length blocks.flatten = blocks.flatMap fun b => (encodeBlock o key b).eb := by
  induction blocks with
  | nil => rfl
  | cons b bs ih =>
    have hcut : (b ++ bs.flatten).take 8 = b ∧ (b ++ bs.flatten).drop 8 = bs.flatten := by
      cases bs with
      | nil => simpa using hle b (by simp)
      | cons c cs =>
        have hb : b.length = 8 := hfull b (by simp)
        exact ⟨List.take_left' hb, List.drop_left' hb⟩
    have hfull' : ∀ c ∈ bs.dropLast, c.length = 8 := by
      cases bs with
      | nil => simp
      | cons c cs => exact fun d hd => hfull d (List.mem_cons_of_mem b hd)
    obtain ⟨htake, hdrop⟩ := hcut
    rw [List.length_cons, encodeBlocks, List.flatten_cons, htake, hdrop,
      ih hfull' fun c hc => hle c (List.mem_cons_of_mem b hc), List.flatMap_cons]

/-- The length field of an encrypted frame holds 8 bits for C3 and 16 for C4 (30_encoding.md R131, R136). -/
theorem lengthLimit_of_encrypted {m : Byte} (hm : m = 0xC3#8 ∨ m = 0xC4#8) :
    lengthLimit (headerSize m) = if m = 0xC3#8 then 255 else 65535 := by
  rcases hm with rfl | rfl <;> rfl

theorem lengthField_of_encrypted {m : Byte} (hm : m = 0xC3#8 ∨ m = 0xC4#8) (len : Nat) :
    lengthField (headerSize m) len =
      if m = 0xC3#8 then [BitVec.ofNat 8 len] else [BitVec.ofNat 8 (len / 256), BitVec.ofNat 8 len] := by
  rcases hm with rfl | rfl <;> rfl

theorem plainMarker_of_encrypted {m : Byte} (hm : m = 0xC3#8 ∨ m = 0xC4#8) : plainMarker m = false := by
  rcases hm with rfl | rfl <;> rfl

/-- SMENCF once FramePrologue has passed on an encrypted frame, k blocks and e bytes long when encrypted: its own checks,
read and writes. -/
theorem exec_smencf_of_prologue {s : State} {p : Prologue} (hp : s.framePrologue s.srcAddr true = .ok p)
    (hm : plainMarker p.m = false) {k e limit : Nat} (hk : blockCount p.h p.len = k) (he : p.h + 11 * k = e)
    (hlimit : lengthLimit p.h = limit) :
    exec .smencf s = s.finish (
      Eval.check (keyUsable s.ekey = true) .keyInvalid <|
      Eval.check (e ≤ limit) .lengthOverflow <|
      Eval.check (s.inBuf s.dstAddr e) .bufRange <|
      (s.memRead (s.srcAddr + p.h) (p.len - p.h)).bind fun payload =>
      .ok (((s.memWrite s.dstAddr (p.m :: lengthField p.h e ++
          encodeBlocks s.params.encMixOrder s.ekey k (s.ectr.count :: payload))).withResults
        e s.ectr.count.toNat).setCounter .ectr s.ectr.increase)) := by
  subst hk he hlimit
  change s.finish ((s.framePrologue s.srcAddr true).bind _) = _
  rw [hp, Eval.bind_ok, hm]
  rfl

/-- What SMENCF leaves when it succeeds, in the spec's own terms: two results, the buffer and the increased ECTR. -/
theorem completeOk_setCounter_withResults_memWrite (s : State) (a : Nat) (bs : List Byte) (r0 : Nat) (r1 : Byte)
    (c : Counter) :
    (((s.memWrite a bs).withResults r0 r1.toNat).setCounter .ectr c).completeOk =
      { succeed s (BitVec.ofNat 32 r0) (r1.setWidth 32) with buf := s.buf.writeBytes a bs, ectr := c } := by
  rw [← BitVec.ofNat_toNat]
  rfl

/-- Settles O47: the checks in order, and for the content cut into blocks the frame they encrypt to. -/
theorem smencfEncryptsOneFrame : Obligations.SmencfEncryptsOneFrame := by
  refine ⟨rfl, fun s p hp hm => ?_⟩
  obtain ⟨-, hh, -⟩ := State.framePrologue_ok hp
  have hlimit := lengthLimit_of_encrypted hm
  have hfield := lengthField_of_encrypted hm
  rw [← hh] at hlimit hfield
  intro k e limit
  have hexec := exec_smencf_of_prologue (k := k) (e := e) hp (plainMarker_of_encrypted hm) rfl rfl hlimit
  refine ⟨fun hz => ?_, fun hz hover => ?_, fun hz hlim hout => ?_, fun hz hlim hin hu => ?_, ?_⟩
  · rw [hexec, Eval.check_neg (by rwa [keyUsable_eq_true, not_not])]
    rfl
  · rw [hexec, Eval.check_pos (keyUsable_eq_true.mpr hz), Eval.check_neg hover.not_ge]
    rfl
  · rw [hexec, Eval.check_pos (keyUsable_eq_true.mpr hz), Eval.check_pos hlim, Eval.check_neg hout.not_ge]
    rfl
  · rw [hexec, Eval.check_pos (keyUsable_eq_true.mpr hz), Eval.check_pos hlim, Eval.check_pos hin,
      State.memRead_of_unwritten hu]
    rfl
  · intro payload blocks hz hlim hin hlen hpayload hcontent hcount hfull hsizes
    have hbody := encodeBlocks_flatten s.params.encMixOrder s.ekey blocks hfull fun b hb => (hsizes b hb).2
    rw [hcontent, hcount] at hbody
    rw [hexec, Eval.check_pos (keyUsable_eq_true.mpr hz), Eval.check_pos hlim, Eval.check_pos hin,
      State.memRead_of_holdsAt hlen hpayload, Eval.bind_ok, State.finish_ok,
      completeOk_setCounter_withResults_memWrite]
    refine ⟨_, rfl, ?_⟩
    rw [← hbody, ← hfield]
    exact Memory.storesOnly_writeBytes _ _ _

end Sys2Proof.Machine
end

/-! PROOFS. CTRINC and CTRRST (40_counter.md). -/
section
namespace Sys2Proof.Machine

/-! ## The count after an increase (40_counter.md R160) -/

/-- Nothing is lost in eight bits: the count stays at most MAX. -/
theorem Counter.increase_count_toNat {c : Counter} (h : c.count.toNat + 1 ≤ c.max.toNat) :
    c.increase.count.toNat = c.count.toNat + 1 := by
  have hfit : c.count.toNat + 1 < 2 ^ 8 := h.trans_lt c.max.isLt
  rw [Counter.increase, if_neg h.not_gt, BitVec.toNat_ofNat, Nat.mod_eq_of_lt hfit]

theorem Counter.increase_count_of_max_lt {c : Counter} (h : c.max.toNat < c.count.toNat + 1) :
    c.increase.count = c.min :=
  if_pos h

/-! ## What the two commands leave (40_counter.md R162, R163) -/

/-- Completing with a counter written and two counts as results, in the spec's own terms. -/
theorem completeOk_withResults_setCounter (s : State) (sel : CtrSel) (c : Counter) (r0 r1 : Byte) :
    ((s.setCounter sel c).withResults r0.toNat r1.toNat).completeOk =
      (succeed s (r0.setWidth 32) (r1.setWidth 32)).setCounter sel c := by
  rw [State.completeOk_withResults, BitVec.ofNat_toNat, BitVec.ofNat_toNat]
  cases sel <;> rfl

theorem exec_ctrinc_eq_succeed (sel : CtrSel) (s : State) :
    exec (.ctrinc sel) s =
      .next ((succeed s ((s.counter sel).increase.count.setWidth 32) ((s.counter sel).count.setWidth 32)).setCounter sel
        (s.counter sel).increase) := by
  rw [exec_ctrinc, completeOk_withResults_setCounter]

theorem exec_ctrrst_eq_succeed (sel : CtrSel) (s : State) :
    exec (.ctrrst sel) s =
      .next ((succeed s ((s.counter sel).min.setWidth 32) ((s.counter sel).count.setWidth 32)).setCounter sel
        (s.counter sel).restart) := by
  rw [exec_ctrrst, completeOk_withResults_setCounter]
  rfl

/-- Settles O54: the new count is that of `Counter.increase`, for either counter. -/
theorem ctrincStepsAndWraps : Obligations.CtrincStepsAndWraps :=
  ⟨rfl, rfl, fun s =>
    ⟨⟨s.ectr.increase.count, exec_ctrinc_eq_succeed .ectr s, Counter.increase_count_toNat,
        Counter.increase_count_of_max_lt⟩,
      ⟨s.dctr.increase.count, exec_ctrinc_eq_succeed .dctr s, Counter.increase_count_toNat,
        Counter.increase_count_of_max_lt⟩⟩⟩

/-- Settles O55: the new count is that of `Counter.restart`, for either counter. -/
theorem ctrrstReturnsToMin : Obligations.CtrrstReturnsToMin :=
  ⟨rfl, rfl, fun s => ⟨exec_ctrrst_eq_succeed .ectr s, exec_ctrrst_eq_succeed .dctr s⟩⟩

end Sys2Proof.Machine
end

/-! PROOFS. The cipher core: ENCSIZE and DECSIZE, shift-bytes bit by bit, and SHIFT (41_cipher_core.md). -/
section
namespace Sys2Proof.Machine

variable {s : State} {p : Prologue}

/-! ## A command that begins with FramePrologue ends where FramePrologue does -/

theorem State.finish_bind_of_framePrologue_err {a : Nat} {full : Bool} {e : ErrCode} {w : OnError}
    (h : s.framePrologue a full = .err e w) (f : Prologue → Eval State) :
    s.finish ((s.framePrologue a full).bind f) = .next (failWith s e) := by
  obtain ⟨rfl, -⟩ := State.framePrologue_err h
  rw [h]
  rfl

theorem State.finish_bind_of_framePrologue_fault {a : Nat} {full : Bool} {r : Fault}
    (h : s.framePrologue a full = .fault r) (f : Prologue → Eval State) :
    s.finish ((s.framePrologue a full).bind f) = .fault r := by
  rw [h]
  rfl

/-! ## ENCSIZE and DECSIZE once FramePrologue has passed (41_cipher_core.md R182, R183) -/

theorem exec_encsize_of_plain (hp : s.framePrologue s.srcAddr false = .ok p) (hm : plainMarker p.m = true) :
    exec .encsize s = .next (succeed s (BitVec.ofNat 32 p.len) 0#32) := by
  rw [exec, execEncsize, hp, Eval.bind_ok, if_pos hm]
  rfl

theorem exec_decsize_of_plain (hp : s.framePrologue s.srcAddr false = .ok p) (hm : plainMarker p.m = true) :
    exec .decsize s = .next (succeed s (BitVec.ofNat 32 p.len) 0#32) := by
  rw [exec, execDecsize, hp, Eval.bind_ok, if_pos hm]
  rfl

/-- The encrypted frame of k blocks must fit the length field. -/
theorem exec_encsize_of_encrypted (hp : s.framePrologue s.srcAddr false = .ok p) (hm : plainMarker p.m = false)
    {k limit : Nat} (hk : blockCount p.h p.len = k) (hlimit : lengthLimit p.h = limit) :
    exec .encsize s = s.finish (
      Eval.check (p.h + 11 * k ≤ limit) .lengthOverflow (.ok (s.withResults (p.h + 11 * k) k))) := by
  subst hk hlimit
  rw [exec, execEncsize, hp, Eval.bind_ok, hm]
  rfl

/-- The payload of an encrypted frame must be whole blocks, at least one. -/
theorem exec_decsize_of_encrypted (hp : s.framePrologue s.srcAddr false = .ok p) (hm : plainMarker p.m = false) :
    exec .decsize s = s.finish (
      Eval.check (0 < p.len - p.h ∧ (p.len - p.h) % 11 = 0) .invalidLength <|
      .ok (s.withResults (p.h + 8 * ((p.len - p.h) / 11) - 1) ((p.len - p.h) / 11))) := by
  rw [exec, execDecsize, hp, Eval.bind_ok, hm]
  rfl

/-- Settles O36: each command's one check, after FramePrologue. -/
theorem encsizeAndDecsizeGiveFrameSizes : Obligations.EncsizeAndDecsizeGiveFrameSizes := by
  refine ⟨rfl, rfl, fun s e w he => ⟨State.finish_bind_of_framePrologue_err he _,
    State.finish_bind_of_framePrologue_err he _⟩, fun s r hr => ⟨State.finish_bind_of_framePrologue_fault hr _,
    State.finish_bind_of_framePrologue_fault hr _⟩, fun s p hp => ⟨fun hm => ?_, fun hm => ?_, fun hm => ?_⟩⟩
  · have hplain := plainMarker_eq_true.mpr hm
    exact ⟨exec_encsize_of_plain hp hplain, exec_decsize_of_plain hp hplain⟩
  · obtain ⟨-, hh, -⟩ := State.framePrologue_ok hp
    have hlimit := lengthLimit_of_encrypted hm
    rw [← hh] at hlimit
    intro k limit
    rw [exec_encsize_of_encrypted (k := k) hp (plainMarker_of_encrypted hm) rfl hlimit]
    refine ⟨fun hover => ?_, fun hfit => ?_⟩
    · rw [Eval.check_neg hover.not_ge]
      rfl
    · rw [Eval.check_pos hfit]
      rfl
  · rw [exec_decsize_of_encrypted hp (plainMarker_of_encrypted hm)]
    refine ⟨fun hbad => ?_, fun k hk hlen => ?_⟩
    · rw [Eval.check_neg (by omega)]
      rfl
    · have hdiv : (p.len - p.h) / 11 = k := by omega
      rw [Eval.check_pos (by omega), hdiv]
      rfl

/-! ## Shift-bytes, bit by bit (41_cipher_core.md R180) -/

section
variable {d src : List Byte} {dbit sbit n : Nat}

/-- One more bit copied: source bit n is OR-ed into the bit it lands on. -/
theorem bitAt_shiftBytes_succ (h : dbit + n < 8 * d.length) (p : Nat) :
    bitAt (shiftBytes d dbit src sbit (n + 1)) p =
      (bitAt (shiftBytes d dbit src sbit n) p || (decide (p = dbit + n) && bitAt src (sbit + n))) := by
  rw [shiftBytes]
  cases hbit : bitAt src (sbit + n) with
  | false => simp
  | true =>
    have hbyte : (dbit + n) / 8 < (shiftBytes d dbit src sbit n).length := by
      rw [length_shiftBytes]
      omega
    simp [bitAt_setBitAt _ _ _ hbyte]

theorem bitAt_shiftBytes (h : dbit + n ≤ 8 * d.length) (p : Nat) :
    bitAt (shiftBytes d dbit src sbit n) p =
      (bitAt d p || (decide (dbit ≤ p ∧ p < dbit + n) && bitAt src (sbit + (p - dbit)))) := by
  induction n with
  | zero =>
    have hnone : ¬ (dbit ≤ p ∧ p < dbit + 0) := by omega
    rw [shiftBytes, decide_eq_false hnone, Bool.false_and, Bool.or_false]
  | succ n ih =>
    rw [bitAt_shiftBytes_succ (by omega), ih (by omega)]
    by_cases hlast : p = dbit + n
    · subst hlast
      simp
    · have hrange : (dbit ≤ p ∧ p < dbit + (n + 1)) ↔ (dbit ≤ p ∧ p < dbit + n) := by omega
      simp [hlast, hrange]

end

/-- Settles O37, by induction on the number of bits copied. -/
theorem shiftBytesMergesEachBit : Obligations.ShiftBytesMergesEachBit :=
  fun d src dbit sbit n h => ⟨length_shiftBytes d dbit src sbit n, bitAt_shiftBytes h⟩

/-! ## SHIFT (41_cipher_core.md R181) -/

/-- SHIFT of at least one bit: the two range checks, the two reads, and then the write. -/
theorem exec_shift_of_pos (hn : 0 < s.lenVal) {ns nd : Nat} (hns : bitSpan s.arg0Val s.lenVal = ns)
    (hnd : bitSpan s.arg1Val s.lenVal = nd) :
    exec .shift s = s.finish (
      Eval.check (s.inBuf s.srcAddr ns) .bufRange <|
      Eval.check (s.inBuf s.dstAddr nd) .bufRange <|
      (s.memRead s.srcAddr ns).bind fun src =>
      (s.memRead s.dstAddr nd).bind fun dst =>
      .ok ((s.memWrite s.dstAddr (shiftBytes dst s.arg1Val src s.arg0Val s.lenVal)).withResults
        (s.arg1Val + s.lenVal) 0)) := by
  subst hns hnd
  exact congrArg s.finish (if_pos hn)

theorem exec_shift_of_zero (hn : s.lenVal = 0) : exec .shift s = .next (succeed s s.arg1 0#32) := by
  have hexec : exec .shift s = s.finish (.ok (s.withResults (s.arg1Val + s.lenVal) 0)) :=
    congrArg s.finish (if_neg hn.not_gt)
  rw [hexec, hn, Nat.add_zero, State.finish_ok, State.completeOk_withResults, BitVec.ofNat_toNat, BitVec.setWidth_eq]

/-- What SHIFT leaves when it copies, in the spec's own terms: RESULT0 is ARG1 + LEN, modulo 2^32. -/
theorem completeOk_withResults_memWrite_arg1 (s : State) (a : Nat) (bs : List Byte) :
    ((s.memWrite a bs).withResults (s.arg1Val + s.lenVal) 0).completeOk =
      { succeed s (s.arg1 + s.len) 0#32 with buf := s.buf.writeBytes a bs } := by
  rw [State.completeOk_withResults, BitVec.ofNat_add, BitVec.ofNat_toNat, BitVec.ofNat_toNat]
  simp only [BitVec.setWidth_eq]
  rfl

/-- A read of two regions is the fault of R382 when either has an unwritten byte, whichever is read first. -/
theorem State.memRead_bind_of_unwritten {α : Type} {a b m n : Nat} (h : unwrittenIn s.buf a m ∨ unwrittenIn s.buf b n)
    (f : List Byte → List Byte → Eval α) :
    ((s.memRead a m).bind fun x => (s.memRead b n).bind (f x)) = .fault .unwrittenRead := by
  by_cases ha : unwrittenIn s.buf a m
  · rw [State.memRead_of_unwritten ha, Eval.bind_fault]
  · obtain ⟨x, hx⟩ := Option.ne_none_iff_exists'.mp (mt (Memory.readBytes_eq_none_iff s.buf a m).mp ha)
    rw [State.memRead_eq_ok.mpr ((Memory.readBytes_eq_some_iff _ _ _ _).mp hx), Eval.bind_ok,
      State.memRead_of_unwritten (h.resolve_left ha), Eval.bind_fault]

/-- Settles O38: the checks in order, then both reads before the one write. -/
theorem shiftCopiesBits : Obligations.ShiftCopiesBits := by
  refine ⟨rfl, fun s => ?_⟩
  intro n ns nd
  have hexec (hn : 0 < n) := exec_shift_of_pos (ns := ns) (nd := nd) hn rfl rfl
  refine ⟨exec_shift_of_zero, fun hn hout => ?_, fun hn hs hout => ?_, fun hn hs hd hu => ?_,
    fun src dst hn hs hd hsrc hdst hsrcAt hdstAt => ?_⟩
  · rw [hexec hn, Eval.check_neg hout.not_ge]
    rfl
  · rw [hexec hn, Eval.check_pos hs, Eval.check_neg hout.not_ge]
    rfl
  · rw [hexec hn, Eval.check_pos hs, Eval.check_pos hd, State.memRead_bind_of_unwritten hu, State.finish_fault]
  · rw [hexec hn, Eval.check_pos hs, Eval.check_pos hd, State.memRead_of_holdsAt hsrc hsrcAt, Eval.bind_ok,
      State.memRead_of_holdsAt hdst hdstAt, Eval.bind_ok, State.finish_ok, completeOk_withResults_memWrite_arg1]
    exact ⟨_, rfl, Memory.storesOnly_writeBytes _ _ _⟩

end Sys2Proof.Machine
end


/-! PROOFS. The encrypted block read back: where each bit of Unpack comes from, and Unpack undoes Pack
(30_encoding.md R134; 42_simple_modulus.md R207). -/
section
namespace Sys2Proof.Machine

/-! ## The 88-bit number of a byte string -/

/-- Byte j of the string stands at bits 87 - 8j .. 80 - 8j of its number. -/
theorem extractLsb'_bitsOfBytes (eb : List Byte) {j : Nat} (hj : j < 11) :
    (bitsOfBytes eb).extractLsb' (80 - 8 * j) 8 = eb.getD j 0#8 := by
  interval_cases j <;>
    simp (disch := decide) only [bitsOfBytes, BitVec.extractLsb'_append_eq_of_le, Nat.reduceMul, Nat.reduceSub,
      BitVec.extractLsb'_append_eq_right, BitVec.extractLsb'_eq_self]

/-- Bit 87 - p of the number is bit p of the string, in bit-stream order. -/
theorem getLsbD_bitsOfBytes (eb : List Byte) {p : Nat} (hp : p < 88) :
    (bitsOfBytes eb).getLsbD (87 - p) = bitAt eb p := by
  have hpos : 80 - 8 * (p / 8) + (7 - p % 8) = 87 - p := by omega
  rw [bitAt, ← extractLsb'_bitsOfBytes eb (by omega), BitVec.getLsbD_extractLsb', hpos, decide_eq_true (by omega),
    Bool.true_and]

theorem bitsOfBytes_bytesOfBits (v : BitVec 88) : bitsOfBytes (bytesOfBits v) = v := by
  refine BitVec.eq_of_getLsbD_eq fun q hq => ?_
  have hpos : 87 - (87 - q) = q := by omega
  rw [← hpos, getLsbD_bitsOfBytes _ (by omega), bitAt_bytesOfBits _ (by omega)]

/-! ## The ring groups -/

/-- The word of a group, bit by bit from the group's top bit: `getLsbD_ringGroup` read backwards. -/
theorem getLsbD_ringOfGroup (g : BitVec 18) :
    (∀ j, j < 8 → (ringOfGroup g).getLsbD (7 - j) = g.getLsbD (17 - j)) ∧
    (∀ j, j < 8 → (ringOfGroup g).getLsbD (15 - j) = g.getLsbD (17 - (8 + j))) ∧
    (ringOfGroup g).getLsbD 17 = g.getLsbD 1 ∧ (ringOfGroup g).getLsbD 16 = g.getLsbD 0 ∧
    ∀ b, 18 ≤ b → (ringOfGroup g).getLsbD b = false := by
  simp only [ringOfGroup, BitVec.getLsbD_append, BitVec.getLsbD_extractLsb']
  refine ⟨fun j hj => ?_, fun j hj => ?_, by simp, by simp, fun b hb => ?_⟩
  · have hadd : 10 + (7 - j) = 17 - j := by omega
    rw [if_pos (by omega), hadd, decide_eq_true (by omega), Bool.true_and]
  · have hadd : 2 + (15 - j - 8) = 17 - (8 + j) := by omega
    rw [if_neg (by omega), if_pos (by omega), hadd, decide_eq_true (by omega), Bool.true_and]
  · rw [if_neg (by omega), if_neg (by omega), if_neg (by omega), if_neg (by omega), BitVec.getLsbD_zero]

/-- A word comes back from its group as its low 18 bits. -/
theorem ringOfGroup_ringGroup (w : Word) : ringOfGroup (ringGroup w) = BitVec.ofNat 32 (w.toNat % 2 ^ 18) := by
  obtain ⟨hlow, hhigh, h17, h16⟩ := getLsbD_ringGroup w
  obtain ⟨olow, ohigh, o17, o16, otop⟩ := getLsbD_ringOfGroup (ringGroup w)
  refine BitVec.eq_of_getLsbD_eq fun b hb => ?_
  have hright : (BitVec.ofNat 32 (w.toNat % 2 ^ 18)).getLsbD b = (decide (b < 18) && w.getLsbD b) := by
    rw [BitVec.getLsbD_ofNat, Nat.testBit_mod_two_pow, decide_eq_true hb, Bool.true_and, BitVec.testBit_toNat]
  rw [hright]
  obtain h | h | rfl | rfl | h : b < 8 ∨ (8 ≤ b ∧ b < 16) ∨ b = 16 ∨ b = 17 ∨ 18 ≤ b := by omega
  · have hj : 7 - (7 - b) = b := by omega
    rw [← hj, olow _ (by omega), hlow _ (by omega), decide_eq_true (by omega), Bool.true_and]
  · have hj : 15 - (15 - b) = b := by omega
    rw [← hj, ohigh _ (by omega), hhigh _ (by omega), decide_eq_true (by omega), Bool.true_and]
  · simpa using o16.trans h16
  · simpa using o17.trans h17
  · rw [otop b h, decide_eq_false (by omega), Bool.false_and]

/-! ## Unpack -/

/-- Word i of the unpacked ring is that of the group 18 i bits from the top. -/
theorem unpackRing_word {eb : List Byte} {i : Nat} {w : Word}
    (hw : [(unpackRing eb).w0, (unpackRing eb).w1, (unpackRing eb).w2, (unpackRing eb).w3][i]? = some w) :
    i < 4 ∧ w = ringOfGroup ((bitsOfBytes eb).extractLsb' (70 - 18 * i) 18) := by
  match i, hw with
  | 0, hw | 1, hw | 2, hw | 3, hw =>
    cases hw
    exact ⟨by decide, rfl⟩

/-- Bit q of the group of word i, counted from the group's first bit in bit-stream order. -/
theorem getLsbD_unpacked_group (eb : List Byte) {i q : Nat} (hi : i < 4) (hq : q < 18) :
    ((bitsOfBytes eb).extractLsb' (70 - 18 * i) 18).getLsbD (17 - q) = bitAt eb (18 * i + q) := by
  have hpos : 70 - 18 * i + (17 - q) = 87 - (18 * i + q) := by omega
  rw [BitVec.getLsbD_extractLsb', hpos, getLsbD_bitsOfBytes _ (by omega), decide_eq_true (by omega), Bool.true_and]

theorem getLsbD_unpackSize (eb : List Byte) {j : Nat} (hj : j < 8) :
    (unpackSize eb).getLsbD (7 - j) = bitAt eb (72 + j) := by
  have hpos : 8 + (7 - j) = 87 - (72 + j) := by omega
  rw [unpackSize, BitVec.getLsbD_extractLsb', hpos, getLsbD_bitsOfBytes _ (by omega), decide_eq_true (by omega),
    Bool.true_and]

theorem getLsbD_unpackChecksum (eb : List Byte) {j : Nat} (hj : j < 8) :
    (unpackChecksum eb).getLsbD (7 - j) = bitAt eb (80 + j) := by
  have hpos : 0 + (7 - j) = 87 - (80 + j) := by omega
  rw [unpackChecksum, BitVec.getLsbD_extractLsb', hpos, getLsbD_bitsOfBytes _ (by omega), decide_eq_true (by omega),
    Bool.true_and]

section
variable (r : Quad) (s x : Byte)

/-- Unpacking a packed block gives each ring word modulo 2^18. -/
theorem unpackRing_packBlock :
    unpackRing (packBlock r s x) =
      { w0 := BitVec.ofNat 32 (r.w0.toNat % 2 ^ 18), w1 := BitVec.ofNat 32 (r.w1.toNat % 2 ^ 18),
        w2 := BitVec.ofNat 32 (r.w2.toNat % 2 ^ 18), w3 := BitVec.ofNat 32 (r.w3.toNat % 2 ^ 18) } := by
  have hgroup {i : Nat} {w : Word} (hw : [r.w0, r.w1, r.w2, r.w3][i]? = some w) :
      ringOfGroup ((packBits r s x).extractLsb' (70 - 18 * i) 18) = BitVec.ofNat 32 (w.toNat % 2 ^ 18) := by
    rw [extractLsb'_packBits_group r s x hw, ringOfGroup_ringGroup]
  rw [unpackRing, packBlock, bitsOfBytes_bytesOfBits, Quad.mk.injEq]
  exact ⟨hgroup (i := 0) rfl, hgroup (i := 1) rfl, hgroup (i := 2) rfl, hgroup (i := 3) rfl⟩

theorem unpackSize_packBlock : unpackSize (packBlock r s x) = s := by
  rw [unpackSize, packBlock, bitsOfBytes_bytesOfBits, packBits]
  simp (disch := decide) only [BitVec.extractLsb'_append_eq_of_le, Nat.reduceSub, BitVec.extractLsb'_append_eq_right]

theorem unpackChecksum_packBlock : unpackChecksum (packBlock r s x) = x := by
  rw [unpackChecksum, packBlock, bitsOfBytes_bytesOfBits, packBits, BitVec.extractLsb'_append_eq_right]

end

/-- Settles O42: each unpacked bit is a bit of its group, and each group comes back as the word's low 18 bits. -/
theorem unpackInvertsPack : Obligations.UnpackInvertsPack := by
  refine ⟨fun eb => ⟨fun i w hw => ?_, fun j => getLsbD_unpackSize eb, fun j => getLsbD_unpackChecksum eb⟩,
    fun r s x => ⟨unpackRing_packBlock r s x, unpackSize_packBlock r s x, unpackChecksum_packBlock r s x⟩⟩
  obtain ⟨hi, rfl⟩ := unpackRing_word hw
  obtain ⟨hlow, hhigh, h17, h16, htop⟩ := getLsbD_ringOfGroup ((bitsOfBytes eb).extractLsb' (70 - 18 * i) 18)
  refine ⟨fun j hj => ?_, fun j hj => ?_, ?_, ?_, htop⟩
  · rw [hlow j hj, getLsbD_unpacked_group eb hi (by omega)]
  · rw [hhigh j hj, getLsbD_unpacked_group eb hi (by omega), Nat.add_assoc]
  · rw [h17, ← getLsbD_unpacked_group eb hi (by omega)]
  · rw [h16, ← getLsbD_unpacked_group eb hi (by omega)]

end Sys2Proof.Machine
end


/-! PROOFS. EncBlock and DecBlock step by step, and the round trip of one block under matching keys
(42_simple_modulus.md R201 to R212). -/
section
namespace Sys2Proof.Machine

variable {k d : KeySet}

/-! ## Bytes and words -/

theorem foldXor_eq_foldr (bs : List Byte) : foldXor bs = bs.foldr (· ^^^ ·) 0#8 := List.foldl_eq_foldr

theorem plainWord_toNat (p : List Byte) (i : Nat) :
    (plainWord p i).toNat = (p.getD (2 * i) 0#8).toNat + 256 * (p.getD (2 * i + 1) 0#8).toNat := by
  rw [plainWord, BitVec.toNat_append, ← Nat.shiftLeft_add_eq_or_of_lt (BitVec.isLt _), BitVec.toNat_append,
    Nat.shiftLeft_eq]
  simp
  omega

theorem plainWord_lt (p : List Byte) (i : Nat) : (plainWord p i).toNat < 2 ^ 16 := by
  rw [plainWord_toNat]
  omega

theorem wordBytes_eq (w : Word) : wordBytes w = [BitVec.ofNat 8 w.toNat, BitVec.ofNat 8 (w.toNat / 256)] := by
  simp [wordBytes, BitVec.extractLsb', Nat.shiftRight_eq_div_pow]

theorem wordBytes_plainWord (p : List Byte) (i : Nat) :
    wordBytes (plainWord p i) = [p.getD (2 * i) 0#8, p.getD (2 * i + 1) 0#8] := by
  simp (disch := decide) only [wordBytes, plainWord, BitVec.extractLsb'_append_eq_of_le, Nat.reduceSub,
    BitVec.extractLsb'_append_eq_right]

/-- The bytes of the four plaintext words are the block. -/
theorem wordBytes_plainWords {p : List Byte} (hp : p.length = 8) :
    wordBytes (plainWord p 0) ++ wordBytes (plainWord p 1) ++ wordBytes (plainWord p 2) ++ wordBytes (plainWord p 3) =
      p := by
  simp only [wordBytes_plainWord]
  match p, hp with
  | [_, _, _, _, _, _, _, _], _ => rfl

theorem lo16_lt (v : Word) : (lo16 v).toNat < 2 ^ 16 := by
  rw [lo16, BitVec.toNat_and]
  exact Nat.and_le_right.trans_lt (by decide)

theorem length_padBlock {b : List Byte} (hb : b.length ≤ 8) : (padBlock b).length = 8 := by
  simp [padBlock, Config.decBlock, hb]

/-! ## The modular step -/

/-- The modular step on unbounded integers (42_simple_modulus.md R202). -/
theorem modStep_toNat (k : KeySet) (i : Fin 4) (c prev : Word) :
    (modStep k i c prev).toNat =
      ((xorWord k i ^^^ c ^^^ prev).toNat * (mulWord k i).toNat) % 2 ^ 32 % (modWord k i).toNat := by
  rw [modStep, BitVec.toNat_umod, BitVec.toNat_mul]

theorem modStep_lt {i : Fin 4} (h : modWord k i ≠ 0#32) (c prev : Word) :
    (modStep k i c prev).toNat < (modWord k i).toNat := by
  rw [modStep_toNat]
  exact Nat.mod_lt _ (Nat.pos_of_ne_zero fun h0 => h (BitVec.eq_of_toNat_eq h0))

/-- The word of the inverse step, with its product on unbounded integers (42_simple_modulus.md R209). -/
theorem unmodStep_eq (d : KeySet) (i : Fin 4) (r prev : Word) :
    unmodStep d i r prev =
      xorWord d i ^^^ BitVec.ofNat 32 ((r.toNat * (mulWord d i).toNat) % 2 ^ 32 % (modWord d i).toNat) ^^^ prev := by
  rw [unmodStep, ← BitVec.toNat_mul, ← BitVec.toNat_umod, BitVec.ofNat_toNat, BitVec.setWidth_eq]

/-- XOR with 16-bit words changes the low half of X alone, so it stays at most X with that half full. -/
theorem xor_toNat_le {x c prev : Word} (hc : c.toNat < 2 ^ 16) (hp : prev.toNat < 2 ^ 16) :
    (x ^^^ c ^^^ prev).toNat ≤ (x ||| 0xFFFF#32).toNat := by
  have hle : x ^^^ c ^^^ prev = (x ^^^ c ^^^ prev) &&& (x ||| 0xFFFF#32) := by
    refine BitVec.eq_of_getLsbD_eq fun b hb => ?_
    by_cases hlow : b < 16
    · have hmask : (0xFFFF#32).getLsbD b = true := by interval_cases b <;> rfl
      simp [hmask]
    · have hsmall {y : Word} (hy : y.toNat < 2 ^ 16) : y.getLsbD b = false :=
        Nat.testBit_lt_two_pow (hy.trans_le (Nat.pow_le_pow_right (by decide) (by omega)))
      simp +contextual [hsmall hc, hsmall hp]
  rw [hle, BitVec.toNat_and]
  exact Nat.and_le_right

/-- Under the matching key condition the inverse step undoes the modular step: neither product wraps, and the multipliers
are inverse modulo K[i] (42_simple_modulus.md R212). -/
theorem unmodStep_modStep (h : matchingKeys k d) (i : Fin 4) {c prev : Word} (hc : c.toNat < 2 ^ 16)
    (hp : prev.toNat < 2 ^ 16) : unmodStep d i (modStep k i c prev) prev = c := by
  obtain ⟨hmod, hxor, hlt, -, hinv, hwrap, hwrap'⟩ := h i
  have hv := xor_toNat_le (x := xorWord k i) hc hp
  set v := xorWord k i ^^^ c ^^^ prev with hvdef
  have hr : (modStep k i c prev).toNat = v.toNat * (mulWord k i).toNat % (modWord k i).toNat := by
    rw [modStep_toNat, Nat.mod_eq_of_lt ((Nat.mul_le_mul_right _ hv).trans_lt hwrap)]
  have hrlt : (modStep k i c prev).toNat ≤ (modWord k i).toNat - 1 := by
    have := Nat.mod_lt (v.toNat * (mulWord k i).toNat) (Nat.zero_lt_of_lt hlt)
    omega
  have hback : (modStep k i c prev).toNat * (mulWord d i).toNat % 2 ^ 32 % (modWord k i).toNat = v.toNat := by
    rw [Nat.mod_eq_of_lt ((Nat.mul_le_mul_right _ hrlt).trans_lt hwrap'), hr, Nat.mod_mul_mod, Nat.mul_assoc,
      ← Nat.mul_mod_mod, hinv, Nat.mul_one, Nat.mod_eq_of_lt (hv.trans_lt hlt)]
  rw [unmodStep_eq, hmod, hxor, hback, BitVec.ofNat_toNat, BitVec.setWidth_eq, hvdef]
  grind

/-! ## The mix step (42_simple_modulus.md R203, R208) -/

theorem xor_xor_twice (a x y : Word) : a ^^^ x ^^^ y ^^^ x ^^^ y = a := by grind

/-- The two sweeps undo each other when their XOR words agree: each word meets the same neighbour on the way back. -/
theorem sweepUp_sweepDown (hx : ∀ i, xorWord d i = xorWord k i) (r : Quad) : sweepUp d (sweepDown k r) = r := by
  simp only [sweepUp, sweepDown, hx, xor_xor_twice]

theorem sweepDown_sweepUp (hx : ∀ i, xorWord d i = xorWord k i) (r : Quad) : sweepDown d (sweepUp k r) = r := by
  simp only [sweepUp, sweepDown, hx, xor_xor_twice]

theorem unmixRing_mixRing (hx : ∀ i, xorWord d i = xorWord k i) (o : MixOrder) (r : Quad) :
    unmixRing o d (mixRing o k r) = r := by
  cases o with
  | desc => exact sweepUp_sweepDown hx r
  | asc => exact sweepDown_sweepUp hx r

theorem mixRing_unmixRing (o : MixOrder) (k : KeySet) (r : Quad) : mixRing o k (unmixRing o k r) = r := by
  cases o with
  | desc => exact sweepDown_sweepUp (fun _ => rfl) r
  | asc => exact sweepUp_sweepDown (fun _ => rfl) r

/-- Settles O40; the block 01 under the server's default key is one whose ciphertexts differ. -/
theorem unmixUndoesMix : Obligations.UnmixUndoesMix :=
  ⟨fun k r => ⟨rfl, rfl, rfl, rfl⟩, fun k r => ⟨rfl, rfl, rfl, rfl⟩,
    fun o k r => ⟨unmixRing_mixRing (fun _ => rfl) o r, mixRing_unmixRing o k r⟩,
    ksS2cEnc, [1#8], by decide⟩

/-! ## EncBlock and DecBlock step by step -/

/-- Settles O39: the words, the two modular steps on integers, and the bound of each ring word. -/
theorem blockFunctionsStepByStep : Obligations.BlockFunctionsStepByStep := by
  refine ⟨fun p i hp hi => ?_, modStep_toNat, fun k c => ⟨rfl, rfl, rfl, rfl, fun hk => ?_⟩, fun o k b hb => ⟨?_, ?_⟩,
    fun o d eb => ⟨?_, rfl, ?_⟩⟩
  · refine ⟨p[2 * i], p[2 * i + 1], List.getElem?_eq_getElem _, List.getElem?_eq_getElem _, ?_⟩
    rw [plainWord_toNat, List.getD_eq_getElem, List.getD_eq_getElem]
  · have hne (i : Fin 4) : modWord k i ≠ 0#32 := fun h => hk ⟨i, h⟩
    exact ⟨modStep_lt (hne 0) _ _, modStep_lt (hne 1) _ _, modStep_lt (hne 2) _ _, modStep_lt (hne 3) _ _⟩
  · exact congrArg (0xF8#8 ^^^ ·) (foldXor_eq_foldr _)
  · rw [← foldXor_eq_foldr]
    rfl
  · simp only [decodeBlock, unmodRing, wordBytes_eq, unmodStep_eq]
    rfl
  · rw [← foldXor_eq_foldr]
    exact decide_eq_true_iff

/-! ## The round trip of one block (42_simple_modulus.md R212) -/

/-- A mixed word of 18-bit words has 18 bits. -/
theorem mixed_word_lt {a x y : Word} (ha : a.toNat < 2 ^ 18) (hx : x.toNat < 2 ^ 18) :
    (a ^^^ x ^^^ lo16 y).toNat < 2 ^ 18 := by
  rw [BitVec.toNat_xor, BitVec.toNat_xor]
  exact Nat.xor_lt_two_pow (Nat.xor_lt_two_pow ha hx) ((lo16_lt y).trans (by decide))

/-- All four words of a ring have 18 bits, as many as Pack keeps (30_encoding.md R134). -/
def Quad.fits (r : Quad) : Prop :=
  r.w0.toNat < 2 ^ 18 ∧ r.w1.toNat < 2 ^ 18 ∧ r.w2.toNat < 2 ^ 18 ∧ r.w3.toNat < 2 ^ 18

theorem Quad.fits.mixRing {r : Quad} (hr : r.fits) (hx : ∀ i, (xorWord k i).toNat < 2 ^ 18) (o : MixOrder) :
    (mixRing o k r).fits := by
  obtain ⟨h0, h1, h2, h3⟩ := hr
  cases o <;> exact ⟨mixed_word_lt h0 (hx 0), mixed_word_lt h1 (hx 1), mixed_word_lt h2 (hx 2), h3⟩

theorem unpackRing_packBlock_of_fits {r : Quad} (hr : r.fits) (s x : Byte) : unpackRing (packBlock r s x) = r := by
  obtain ⟨h0, h1, h2, h3⟩ := hr
  rw [unpackRing_packBlock, Nat.mod_eq_of_lt h0, Nat.mod_eq_of_lt h1, Nat.mod_eq_of_lt h2, Nat.mod_eq_of_lt h3]
  simp only [BitVec.ofNat_toNat, BitVec.setWidth_eq]

section
variable (h : matchingKeys k d)
include h

theorem matchingKeys.xorWord_eq (i : Fin 4) : xorWord d i = xorWord k i := by
  obtain ⟨-, hxor, -⟩ := h i
  exact hxor

theorem matchingKeys.xorWord_lt (i : Fin 4) : (xorWord k i).toNat < 2 ^ 18 := by
  obtain ⟨-, -, hlt, hle, -⟩ := h i
  have hor : (xorWord k i).toNat ≤ (xorWord k i ||| 0xFFFF#32).toNat := by
    rw [BitVec.toNat_or]
    exact Nat.left_le_or
  omega

theorem matchingKeys.modWord_ne_zero (i : Fin 4) : modWord k i ≠ 0#32 := by
  obtain ⟨-, -, hlt, -⟩ := h i
  intro h0
  rw [h0] at hlt
  exact Nat.not_lt_zero _ hlt

theorem matchingKeys.modStep_fits (i : Fin 4) (c prev : Word) : (modStep k i c prev).toNat < 2 ^ 18 := by
  obtain ⟨-, -, -, hle, -⟩ := h i
  exact (modStep_lt (h.modWord_ne_zero i) c prev).trans_le hle

theorem matchingKeys.modRing_fits (c : Quad) : (modRing k c).fits :=
  ⟨h.modStep_fits 0 _ _, h.modStep_fits 1 _ _, h.modStep_fits 2 _ _, h.modStep_fits 3 _ _⟩

/-- The inverse steps give the block back: each uses the ring word its modular step used. -/
theorem unmodRing_modRing {p : List Byte} (hp : p.length = 8) : unmodRing d (modRing k (plainWords p)) = p := by
  have hstep (i : Fin 4) (j : Nat) {prev : Word} (hprev : prev.toNat < 2 ^ 16) :
      unmodStep d i (modStep k i (plainWord p j) prev) prev = plainWord p j :=
    unmodStep_modStep h i (plainWord_lt p j) hprev
  calc unmodRing d (modRing k (plainWords p))
    _ = wordBytes (plainWord p 0) ++ wordBytes (plainWord p 1) ++ wordBytes (plainWord p 2) ++
          wordBytes (plainWord p 3) := by
      simp only [unmodRing, modRing, plainWords]
      rw [hstep 0 0 (by decide), hstep 1 1 (lo16_lt _), hstep 2 2 (lo16_lt _), hstep 3 3 (lo16_lt _)]
    _ = p := wordBytes_plainWords hp

/-- DecBlock undoes EncBlock: unpack, unmix and the inverse steps undo pack, mix and the modular steps. -/
theorem decodeBlock_encodeBlock (o : MixOrder) {b : List Byte} (hb : b.length ≤ 8) :
    decodeBlock o d (encodeBlock o k b).eb = { o := padBlock b, n := b.length, ok := true } := by
  have hring : unmodRing d (unmixRing o d (unpackRing (encodeBlock o k b).eb)) = padBlock b := by
    rw [encodeBlock, unpackRing_packBlock_of_fits ((h.modRing_fits _).mixRing h.xorWord_lt o),
      unmixRing_mixRing h.xorWord_eq, unmodRing_modRing h (length_padBlock hb)]
  have hsum : unpackChecksum (encodeBlock o k b).eb = checksum (padBlock b) := unpackChecksum_packBlock _ _ _
  have hsize : unpackSize (encodeBlock o k b).eb = sizeByte b.length (checksum (padBlock b)) := unpackSize_packBlock _ _ _
  have hn : sizeByte b.length (checksum (padBlock b)) ^^^ checksum (padBlock b) ^^^ Config.sizeXor =
      BitVec.ofNat 8 b.length := by
    unfold sizeByte
    grind
  rw [decodeBlock, hring, hsum, hsize, hn, BitVec.toNat_ofNat, Nat.mod_eq_of_lt (by omega)]
  simp

end

theorem matchingKeys_s2c : matchingKeys ksS2cEnc ksS2cDec := by
  unfold matchingKeys
  decide

theorem matchingKeys_c2s : matchingKeys ksC2sEnc ksC2sDec := by
  unfold matchingKeys
  decide

/-- Settles O43, from the round trip of a block under any matching pair. -/
theorem matchingKeysRoundTripEveryBlock : Obligations.MatchingKeysRoundTripEveryBlock :=
  ⟨matchingKeys_s2c, matchingKeys_c2s, fun o _ _ _ h _ hb => decodeBlock_encodeBlock h o hb⟩

end Sys2Proof.Machine
end


/-! PROOFS. The commands of the SimpleModulus cipher: SMENCB and SMDECB, the plain case of the frame commands, and SMDECF of
an encrypted frame (42_simple_modulus.md R213 to R220). -/
section
namespace Sys2Proof.Machine

variable {s : State} {p : Prologue}

/-! ## How the cipher commands end -/

theorem not_keyUsable {k : KeySet} (h : zeroModulus k) : ¬ keyUsable k = true :=
  fun hk => keyUsable_eq_true.mp hk h

/-- The error after a tolerated checksum, in the spec's own terms: CSUM_WARN is set if one was tolerated. -/
theorem raise_onError_ofWarn (s : State) (warn : Bool) (e : ErrCode) :
    (s.onError (.ofWarn warn)).raise e = { failWith s e with csumWarn := s.csumWarn || warn } := by
  cases warn with
  | false =>
    rw [Bool.or_false]
    rfl
  | true =>
    rw [Bool.or_true]
    rfl

/-- A check of SMDECF after its blocks that fails ends in its error, with the warning of the blocks. -/
theorem State.finish_checkWarn_neg {c : Prop} [Decidable c] (h : ¬ c) (e : ErrCode) (warn : Bool) (r : Eval State) :
    s.finish (Eval.checkWarn c e warn r) = .next { failWith s e with csumWarn := s.csumWarn || warn } := by
  rw [Eval.checkWarn, if_neg h, State.finish_err, raise_onError_ofWarn]

theorem Eval.checkWarn_pos {α : Type} {c : Prop} [Decidable c] (h : c) (e : ErrCode) (warn : Bool) (r : Eval α) :
    Eval.checkWarn c e warn r = r :=
  if_pos h

theorem completeOk_withResults_memWrite (s : State) (a : Nat) (bs : List Byte) (r0 r1 : Nat) :
    ((s.memWrite a bs).withResults r0 r1).completeOk =
      { succeed s (BitVec.ofNat 32 r0) (BitVec.ofNat 32 r1) with buf := s.buf.writeBytes a bs } := rfl

theorem completeOk_addWarn (s : State) (warn : Bool) :
    (s.addWarn warn).completeOk = { s.completeOk with csumWarn := s.csumWarn || warn } := rfl

/-! ## SMENCB (42_simple_modulus.md R213) -/

/-- SMENCB with its checks in order, its read and its writes. -/
theorem exec_smencb (s : State) :
    exec .smencb s = s.finish (
      Eval.check (1 ≤ s.lenVal ∧ s.lenVal ≤ 8) .blockSize <|
      Eval.check (s.inBuf s.srcAddr s.lenVal) .bufRange <|
      Eval.check (s.inBuf s.dstAddr 11) .bufRange <|
      Eval.check (keyUsable s.ekey = true) .keyInvalid <|
      (s.memRead s.srcAddr s.lenVal).bind fun b =>
      .ok ((s.memWrite s.dstAddr (encodeBlock s.params.encMixOrder s.ekey b).eb).withResults 11
        (encodeBlock s.params.encMixOrder s.ekey b).x.toNat)) := rfl

/-- Settles O44: the checks in order, then the read and the writes. -/
theorem smencbEncryptsOneBlock : Obligations.SmencbEncryptsOneBlock := by
  refine ⟨rfl, fun s => ?_⟩
  intro n
  rw [exec_smencb]
  refine ⟨fun hn => ?_, fun h1 h8 hout => ?_, fun h1 h8 hs hout => ?_, fun h1 h8 hs hd hz => ?_,
    fun h1 h8 hs hd hk hu => ?_, fun b h1 h8 hs hd hk hl hb => ?_⟩
  · change s.lenVal = 0 ∨ 8 < s.lenVal at hn
    rw [Eval.check_neg (by omega)]
    rfl
  · rw [Eval.check_pos ⟨h1, h8⟩, Eval.check_neg hout.not_ge]
    rfl
  · rw [Eval.check_pos ⟨h1, h8⟩, Eval.check_pos hs, Eval.check_neg hout.not_ge]
    rfl
  · rw [Eval.check_pos ⟨h1, h8⟩, Eval.check_pos hs, Eval.check_pos hd, Eval.check_neg (not_keyUsable hz)]
    rfl
  · rw [Eval.check_pos ⟨h1, h8⟩, Eval.check_pos hs, Eval.check_pos hd, Eval.check_pos (keyUsable_eq_true.mpr hk),
      State.memRead_of_unwritten hu]
    rfl
  · rw [Eval.check_pos ⟨h1, h8⟩, Eval.check_pos hs, Eval.check_pos hd, Eval.check_pos (keyUsable_eq_true.mpr hk),
      State.memRead_of_holdsAt hl hb, Eval.bind_ok, State.finish_ok, completeOk_withResults_memWrite,
      BitVec.ofNat_toNat]
    exact ⟨_, rfl, Memory.storesOnly_writeBytes _ _ _⟩

/-! ## SMDECB (42_simple_modulus.md R214, R220) -/

/-- SMDECB with its checks in order, its read and its writes. -/
theorem exec_smdecb (s : State) :
    exec .smdecb s = s.finish (
      Eval.check (s.inBuf s.srcAddr 11) .bufRange <|
      Eval.check (s.inBuf s.dstAddr 8) .bufRange <|
      Eval.check (keyUsable s.dkey = true) .keyInvalid <|
      (s.memRead s.srcAddr 11).bind fun eb =>
      (s.checkBlock false (decodeBlock s.params.encMixOrder s.dkey eb)).bind fun warn =>
      .ok (((s.memWrite s.dstAddr (decodeBlock s.params.encMixOrder s.dkey eb).o).withResults
        (decodeBlock s.params.encMixOrder s.dkey eb).n
        (if (decodeBlock s.params.encMixOrder s.dkey eb).ok then 1 else 0)).addWarn warn)) := rfl

/-- Settles O45: the checks in order, and then the outcomes of the policy and size checks on the decoded block. -/
theorem smdecbDecryptsOneBlock : Obligations.SmdecbDecryptsOneBlock := by
  refine ⟨rfl, fun s => ?_⟩
  rw [exec_smdecb]
  refine ⟨fun hout => ?_, fun hs hout => ?_, fun hs hd hz => ?_, fun hs hd hk hu => ?_, fun eb hs hd hk hl hb => ?_⟩
  · rw [Eval.check_neg hout.not_ge]
    rfl
  · rw [Eval.check_pos hs, Eval.check_neg hout.not_ge]
    rfl
  · rw [Eval.check_pos hs, Eval.check_pos hd, Eval.check_neg (not_keyUsable hz)]
    rfl
  · rw [Eval.check_pos hs, Eval.check_pos hd, Eval.check_pos (keyUsable_eq_true.mpr hk), State.memRead_of_unwritten hu]
    rfl
  · rw [Eval.check_pos hs, Eval.check_pos hd, Eval.check_pos (keyUsable_eq_true.mpr hk), State.memRead_of_holdsAt hl hb,
      Eval.bind_ok]
    intro q
    refine ⟨fun hbad hstrict => ?_, fun hpolicy hn => ?_, fun haccepted => ?_⟩
    · rw [State.checkBlock_eq_err.mpr (.inl ⟨hbad, hstrict, rfl, rfl⟩)]
      rfl
    · rw [State.checkBlock_eq_err.mpr (.inr ⟨hpolicy, hn, rfl, rfl⟩), Eval.bind_err, State.finish_err,
        raise_onError_ofWarn, Bool.false_or]
    · have hresult : BitVec.ofNat 32 (if q.ok then 1 else 0) = if q.ok then 1#32 else 0#32 := apply_ite _ _ _ _
      rw [State.checkBlock_eq_ok.mpr ⟨haccepted, rfl⟩, Eval.bind_ok, State.finish_ok, completeOk_addWarn,
        completeOk_withResults_memWrite, hresult, Bool.false_or]
      exact ⟨_, rfl, Memory.storesOnly_writeBytes _ _ _⟩

/-! ## The plain case of the frame commands (42_simple_modulus.md R216 to R218) -/

/-- SMENCF and SMDECF begin with FramePrologue, and go on to the copy when the marker is plain. -/
theorem exec_frameCommand {i : Instr} (hi : i = .smencf ∨ i = .smdecf) (s : State) :
    ∃ f : Prologue → Eval State, exec i s = s.finish ((s.framePrologue s.srcAddr true).bind f) ∧
      ∀ p, plainMarker p.m = true → f p = s.copyFrame p.len := by
  rcases hi with rfl | rfl <;> exact ⟨_, rfl, fun p hp => if_pos hp⟩

theorem exec_frameCommand_of_plain {i : Instr} (hi : i = .smencf ∨ i = .smdecf)
    (hp : s.framePrologue s.srcAddr true = .ok p) (hm : plainMarker p.m = true) :
    exec i s = s.finish (s.copyFrame p.len) := by
  obtain ⟨f, hexec, hf⟩ := exec_frameCommand hi s
  rw [hexec, hp, Eval.bind_ok, hf p hm]

/-- Settles O46: what FramePrologue answers is what the command answers, and a plain frame has the copy's check and read. -/
theorem plainFramesAreCopied : Obligations.PlainFramesAreCopied := by
  refine ⟨fun s i e w hi he => ?_, fun s i r hi hr => ?_, fun s p i hi hp hm => ?_⟩
  · obtain ⟨f, hexec, -⟩ := exec_frameCommand hi s
    rw [hexec, State.finish_bind_of_framePrologue_err he]
  · obtain ⟨f, hexec, -⟩ := exec_frameCommand hi s
    rw [hexec, State.finish_bind_of_framePrologue_fault hr]
  · rw [exec_frameCommand_of_plain hi hp (plainMarker_eq_true.mpr hm), State.copyFrame]
    refine ⟨fun hout => ?_, fun hin hu => ?_, fun f hin hl hf => ?_⟩
    · rw [Eval.check_neg hout.not_ge]
      rfl
    · rw [Eval.check_pos hin, State.memRead_of_unwritten hu]
      rfl
    · rw [Eval.check_pos hin, State.memRead_of_holdsAt hl hf, Eval.bind_ok, State.finish_ok,
        completeOk_withResults_memWrite]
      exact ⟨_, rfl, Memory.storesOnly_writeBytes _ _ _⟩

/-! ## SMDECF of an encrypted frame: the checks before the blocks, and the first failing block -/

/-- What SMDECF does with the content of its blocks: the counter check, the range check and the writes
(42_simple_modulus.md R217). -/
def State.deliverContent (s : State) (p : Prologue) (c : List Byte) (warn : Bool) : Eval State :=
  Eval.checkWarn (c.headD 0#8 = s.dctr.count) .counterMismatch warn <|
  Eval.checkWarn (s.inBuf s.dstAddr (p.h + c.length - 1)) .bufRange warn <|
  .ok ((((s.memWrite s.dstAddr (p.m :: lengthField p.h (p.h + c.length - 1) ++ c.tail)).withResults
    (p.h + c.length - 1) (c.headD 0#8).toNat).setCounter .dctr s.dctr.increase).addWarn warn)

/-- SMDECF once FramePrologue has passed on an encrypted frame. -/
theorem exec_smdecf_of_prologue (hp : s.framePrologue s.srcAddr true = .ok p) (hm : plainMarker p.m = false) :
    exec .smdecf s = s.finish (
      Eval.check (keyUsable s.dkey = true) .keyInvalid <|
      Eval.check (0 < p.len - p.h ∧ (p.len - p.h) % 11 = 0) .invalidLength <|
      (s.decodeBlocks ((p.len - p.h) / 11) (s.srcAddr + p.h) false).bind fun r => s.deliverContent p r.1 r.2) := by
  rw [exec, execSmdecf, hp, Eval.bind_ok, hm]
  rfl

/-- SMDECF of k blocks under a usable key: the blocks, and then their content. -/
theorem exec_smdecf_of_blocks (hp : s.framePrologue s.srcAddr true = .ok p) (hm : plainMarker p.m = false)
    (hk : keyUsable s.dkey = true) {k : Nat} (hpos : 0 < k) (hlen : p.len - p.h = 11 * k) :
    exec .smdecf s = s.finish (
      (s.decodeBlocks k (s.srcAddr + p.h) false).bind fun r => s.deliverContent p r.1 r.2) := by
  have hdiv : (p.len - p.h) / 11 = k := by omega
  rw [exec_smdecf_of_prologue hp hm, Eval.check_pos hk, Eval.check_pos (by omega), hdiv]

theorem Eval.bind_assoc {α β γ : Type} (x : Eval α) (f : α → Eval β) (g : β → Eval γ) :
    (x.bind f).bind g = x.bind fun a => (f a).bind g := by
  cases x <;> rfl

/-- Blocks after blocks: the later ones start where the earlier ones end, with the warning they left. -/
theorem State.decodeBlocks_add (s : State) (j k a : Nat) (warn : Bool) :
    s.decodeBlocks (j + k) a warn =
      (s.decodeBlocks j a warn).bind fun r =>
      (s.decodeBlocks k (a + 11 * j) r.2).bind fun q => .ok (r.1 ++ q.1, q.2) := by
  induction j generalizing a warn with
  | zero =>
    rw [Nat.zero_add, State.decodeBlocks, Eval.bind_ok, Nat.mul_zero, Nat.add_zero]
    cases s.decodeBlocks k a warn <;> rfl
  | succ j ih =>
    have haddr : a + 11 + 11 * j = a + 11 * (j + 1) := by omega
    rw [Nat.succ_add]
    simp only [State.decodeBlocks, Eval.bind_assoc, Eval.bind_ok, ih, Config.encBlock, haddr, List.append_assoc]

/-- One block, already there: the policy and size checks decide (42_simple_modulus.md R220). -/
theorem State.decodeBlocks_one_of_err {a : Nat} {warn : Bool} {eb : List Byte} (hl : eb.length = 11)
    (hb : holdsAt s.buf a eb) {e : ErrCode} {w : OnError}
    (he : s.checkBlock warn (decodeBlock s.params.encMixOrder s.dkey eb) = .err e w) :
    s.decodeBlocks 1 a warn = .err e w := by
  simp only [State.decodeBlocks, State.memRead_of_holdsAt hl hb, Eval.bind_ok, he, Eval.bind_err]

/-- After accepted blocks the evaluation goes on with the next block, and with whatever follows it. -/
theorem State.decodeBlocks_after_accepted {a k : Nat} {good : List (List Byte)} (hl : ∀ b ∈ good, b.length = 11)
    (hh : holdsAt s.buf a good.flatten)
    (ha : ∀ q ∈ good.map (decodeBlock s.params.encMixOrder s.dkey), blockAccepted s.acceptBadCsum q)
    (hk : good.length < k) :
    ∃ f : List Byte × Bool → Eval (List Byte × Bool), s.decodeBlocks k a false =
      (s.decodeBlocks 1 (a + 11 * good.length)
        (anyMismatch (good.map (decodeBlock s.params.encMixOrder s.dkey)))).bind f := by
  obtain ⟨rest, rfl⟩ : ∃ rest, k = good.length + (1 + rest) := ⟨k - good.length - 1, by omega⟩
  rw [State.decodeBlocks_add, State.decodeBlocks_of_accepted good a false hl hh ha, Eval.bind_ok, Bool.false_or,
    State.decodeBlocks_add, Eval.bind_assoc]
  exact ⟨_, rfl⟩

/-- Settles O48: the two checks before the blocks, and then the first block that is not accepted decides. -/
theorem smdecfReportsTheFirstFailingBlock : Obligations.SmdecfReportsTheFirstFailingBlock := by
  refine ⟨rfl, fun s p hp hm => ⟨fun hz => ?_, fun hz hlen => ?_, fun good k hz hlen hlt hl hh => ?_⟩⟩
  · rw [exec_smdecf_of_prologue hp (plainMarker_of_encrypted hm), Eval.check_neg (not_keyUsable hz)]
    rfl
  · rw [exec_smdecf_of_prologue hp (plainMarker_of_encrypted hm), Eval.check_pos (keyUsable_eq_true.mpr hz),
      Eval.check_neg (by omega)]
    rfl
  · intro ps hps
    obtain ⟨f, hblocks⟩ := State.decodeBlocks_after_accepted hl hh hps hlt
    rw [exec_smdecf_of_blocks hp (plainMarker_of_encrypted hm) (keyUsable_eq_true.mpr hz) (by omega) hlen, hblocks]
    refine ⟨fun hu => ?_, fun bad hbl hb => ⟨fun hbad hstrict => ?_, fun hpolicy hn => ?_⟩⟩
    · rw [State.decodeBlocks, State.memRead_of_unwritten hu]
      rfl
    · rw [State.decodeBlocks_one_of_err hbl hb (State.checkBlock_eq_err.mpr (.inl ⟨hbad, hstrict, rfl, rfl⟩)),
        Eval.bind_err, Eval.bind_err, State.finish_err, raise_onError_ofWarn]
    · rw [State.decodeBlocks_one_of_err hbl hb (State.checkBlock_eq_err.mpr (.inr ⟨hpolicy, hn, rfl, rfl⟩)),
        Eval.bind_err, Eval.bind_err, State.finish_err, raise_onError_ofWarn]

/-! ## SMDECF once every block is accepted -/

/-- The content with its counter byte at the head. -/
theorem State.deliverContent_cons (s : State) (p : Prologue) (c0 : Byte) (payload : List Byte) (warn : Bool) :
    s.deliverContent p (c0 :: payload) warn =
      Eval.checkWarn (c0 = s.dctr.count) .counterMismatch warn
        (Eval.checkWarn (s.inBuf s.dstAddr (p.h + payload.length)) .bufRange warn <|
        .ok ((((s.memWrite s.dstAddr (p.m :: lengthField p.h (p.h + payload.length) ++ payload)).withResults
          (p.h + payload.length) c0.toNat).setCounter .dctr s.dctr.increase).addWarn warn)) := rfl

/-- What SMDECF leaves when it succeeds, in the spec's own terms. -/
theorem completeOk_addWarn_setCounter_withResults_memWrite (s : State) (a : Nat) (bs : List Byte) (r0 : Nat) (r1 : Byte)
    (c : Counter) (warn : Bool) :
    ((((s.memWrite a bs).withResults r0 r1.toNat).setCounter .dctr c).addWarn warn).completeOk =
      { succeed s (BitVec.ofNat 32 r0) (r1.setWidth 32) with
          buf := s.buf.writeBytes a bs, dctr := c, csumWarn := s.csumWarn || warn } := by
  rw [← BitVec.ofNat_toNat]
  rfl

/-- The content delivered: the state SMDECF ends in when the counter agrees and the frame fits. -/
theorem State.finish_deliverContent {c0 : Byte} {payload : List Byte} (hc : c0 = s.dctr.count)
    (hin : s.inBuf s.dstAddr (p.h + payload.length)) (warn : Bool) :
    s.finish (s.deliverContent p (c0 :: payload) warn) =
      .next { succeed s (BitVec.ofNat 32 (p.h + payload.length)) (c0.setWidth 32) with
        buf := s.buf.writeBytes s.dstAddr (p.m :: lengthField p.h (p.h + payload.length) ++ payload),
        dctr := s.dctr.increase, csumWarn := s.csumWarn || warn } := by
  rw [State.deliverContent_cons, Eval.checkWarn_pos hc, Eval.checkWarn_pos hin, State.finish_ok,
    completeOk_addWarn_setCounter_withResults_memWrite]

/-- Settles O49: the two checks after the blocks and the writes; the output is shorter because 8 bytes at most come of
each 11. -/
theorem smdecfDecryptsOneFrame : Obligations.SmdecfDecryptsOneFrame := by
  intro s p ebs hp hm hz hne hlen hl hh ps hps warn c0 payload hcontent lout
  have hblocks := State.decodeBlocks_of_accepted ebs (s.src.toNat + p.h) false hl hh hps
  rw [hcontent, Bool.false_or] at hblocks
  rw [exec_smdecf_of_blocks hp (plainMarker_of_encrypted hm) (keyUsable_eq_true.mpr hz) (List.length_pos_of_ne_nil hne)
    hlen, hblocks, Eval.bind_ok]
  refine ⟨fun hc => ?_, fun hc hout => ?_, fun hc hin => ?_⟩
  · rw [State.deliverContent_cons, State.finish_checkWarn_neg hc]
  · rw [State.deliverContent_cons, Eval.checkWarn_pos hc, State.finish_checkWarn_neg hout.not_ge]
  · obtain ⟨-, hh, -, -, -, hhl, -⟩ := State.framePrologue_ok hp
    obtain ⟨-, hmax⟩ := State.length_decodeBlocks hblocks
    rw [List.length_cons] at hmax
    have hfield := lengthField_of_encrypted hm lout
    rw [← hh] at hfield
    rw [State.finish_deliverContent hc hin, ← hfield]
    exact ⟨_, rfl, Memory.storesOnly_writeBytes _ _ _, by omega⟩

end Sys2Proof.Machine
end


/-! PROOFS. The round trip of a frame between two PCBs: the frame as its header and payload, the encrypted frame as the peer
reads it, and the blocks decoded to the content they were cut from (42_simple_modulus.md R212, R216, R217;
95_test_vectors.md section 1). -/
section
namespace Sys2Proof.Machine

variable {s t u : State} {p : Prologue}

/-! ## Byte strings that stand in the buffer -/

theorem holdsAt_nil (m : Memory) (a : Nat) : holdsAt m a [] := fun _ _ hj => nomatch hj

theorem holdsAt_cons {m : Memory} {a : Nat} {b : Byte} {bs : List Byte} :
    holdsAt m a (b :: bs) ↔ m.read a = some b ∧ holdsAt m (a + 1) bs := by
  have haddr (j : Nat) : a + 1 + j = a + (j + 1) := by omega
  constructor
  · intro h
    refine ⟨h 0 b rfl, fun j c hj => ?_⟩
    rw [haddr]
    exact h (j + 1) c hj
  · rintro ⟨h0, hrest⟩ j c hj
    cases j with
    | zero =>
      cases hj
      exact h0
    | succ j =>
      rw [← haddr]
      exact hrest j c hj

theorem holdsAt_append {m : Memory} {a : Nat} {bs cs : List Byte} :
    holdsAt m a (bs ++ cs) ↔ holdsAt m a bs ∧ holdsAt m (a + bs.length) cs := by
  induction bs generalizing a with
  | nil => simp [holdsAt_nil]
  | cons b bs ih =>
    have haddr : a + 1 + bs.length = a + (bs.length + 1) := by omega
    rw [List.cons_append, holdsAt_cons, holdsAt_cons, ih, and_assoc, List.length_cons, haddr]

/-- Two strings of one length at one address are one string. -/
theorem holdsAt_unique {m : Memory} {a : Nat} {bs cs : List Byte} (hl : bs.length = cs.length) (hb : holdsAt m a bs)
    (hc : holdsAt m a cs) : bs = cs :=
  Option.some.inj (((Memory.readBytes_eq_some_iff m a _ bs).mpr ⟨hl, hb⟩).symm.trans
    ((Memory.readBytes_eq_some_iff m a _ cs).mpr ⟨rfl, hc⟩))

theorem holdsAt_of_read_eq {m m' : Memory} {a a' : Nat} {bs : List Byte} (hb : holdsAt m a bs)
    (hr : ∀ j, j < bs.length → m'.read (a' + j) = m.read (a + j)) : holdsAt m' a' bs :=
  fun j b hj => (hr j (List.getElem?_eq_some_iff.mp hj).1).trans (hb j b hj)

/-! ## The header of a frame, written and read (30_encoding.md R130 to R132) -/

/-- The length field of a header is the length FramePrologue declares. -/
theorem lengthField_declaredLength {m : Byte} (hm : headerSize m = 2 ∨ headerSize m = 3) (b1 b2 : Byte) :
    lengthField (headerSize m) (declaredLength m b1 b2) = if headerSize m = 2 then [b1] else [b1, b2] := by
  have h2 := b2.isLt
  rcases hm with h | h
  · simp [lengthField, declaredLength, h]
  · have hdiv : (b1.toNat * 256 + b2.toNat) / 256 = b1.toNat := by omega
    have hlow : BitVec.ofNat 8 (b1.toNat * 256 + b2.toNat) = b2 := by
      refine BitVec.eq_of_toNat_eq ?_
      rw [BitVec.toNat_ofNat]
      omega
    simp [lengthField, declaredLength, h, hdiv, hlow]

/-- A length within the field's limit is declared by its field. -/
theorem declaredLength_lengthField {m : Byte} (hm : headerSize m = 2 ∨ headerSize m = 3) {len : Nat}
    (hlen : len ≤ lengthLimit (headerSize m)) :
    ∃ b1 b2, declaredLength m b1 b2 = len ∧
      lengthField (headerSize m) len = if headerSize m = 2 then [b1] else [b1, b2] := by
  rcases hm with h | h
  · have hlen8 : len ≤ 255 := by simpa [lengthLimit, h] using hlen
    refine ⟨BitVec.ofNat 8 len, 0#8, ?_, by simp [lengthField, h]⟩
    rw [declaredLength_of_short _ _ h, BitVec.toNat_ofNat]
    omega
  · have hlen16 : len ≤ 65535 := by simpa [lengthLimit, h] using hlen
    have hbytes : len / 256 % 256 * 256 + len % 256 = len := by omega
    exact ⟨BitVec.ofNat 8 (len / 256), BitVec.ofNat 8 len, by simpa [declaredLength, h] using hbytes,
      by simp [lengthField, h]⟩

/-- Where FramePrologue returns, the marker and the length field stand. -/
theorem State.framePrologue_header {a : Nat} {full : Bool} (hp : s.framePrologue a full = .ok p) :
    holdsAt s.buf a (p.m :: lengthField p.h p.len) := by
  obtain ⟨hm, hh, hsize, -, ⟨b1, b2, h1, h2, hlen⟩, -⟩ := State.framePrologue_ok hp
  rw [hh] at hsize h2 ⊢
  rw [hlen, lengthField_declaredLength hsize]
  rcases hsize with h | h
  · simp [h, holdsAt_cons, holdsAt_nil, hm, h1]
  · simp [h, holdsAt_cons, holdsAt_nil, hm, h1, h2 h]

/-- FramePrologue returns the marker and length a header holds, when the frame is in range. -/
theorem State.framePrologue_of_lengthField {a len : Nat} {m : Byte} (full : Bool)
    (hm : headerSize m = 2 ∨ headerSize m = 3) (hle : headerSize m ≤ len) (hlen : len ≤ lengthLimit (headerSize m))
    (hin : s.inBuf a len) (hh : holdsAt s.buf a (m :: lengthField (headerSize m) len)) :
    s.framePrologue a full = .ok { m := m, h := headerSize m, len := len } := by
  obtain ⟨b1, b2, rfl, hfield⟩ := declaredLength_lengthField hm hlen
  rw [hfield] at hh
  have h0 : s.buf.read a = some m := hh 0 m rfl
  have h1 : s.buf.read (a + 1) = some b1 := hh 1 b1 (by split <;> rfl)
  have h2 : headerSize m = 3 → s.buf.read (a + 2) = some b2 := fun h => hh 2 b2 (by simp [h])
  have hwithin {n : Nat} (hn : n ≤ declaredLength m b1 b2) : s.inBuf a n := (Nat.add_le_add_left hn a).trans hin
  rw [State.framePrologue_of_header (hwithin (by omega)) h0 (by omega) (hwithin hle) h1 h2, Eval.check_pos (by omega),
    Eval.check_pos hle, Eval.check_pos fun _ => hin]

theorem length_frameHeader (m : Byte) {h : Nat} (hh : h = 2 ∨ h = 3) (len : Nat) :
    (m :: lengthField h len).length = h := by
  simpa using length_frame m hh len []

/-- A frame is its marker, its length field and its payload. -/
theorem frame_eq_header_payload {f payload : List Byte} (hp : s.framePrologue s.srcAddr true = .ok p)
    (hf : f.length = p.len) (hat : holdsAt s.buf s.srcAddr f) (hl : payload.length = p.len - p.h)
    (hpayload : holdsAt s.buf (s.srcAddr + p.h) payload) : f = p.m :: lengthField p.h p.len ++ payload := by
  obtain ⟨-, -, hsize, -, -, hle, -⟩ := State.framePrologue_ok hp
  have hheader := length_frameHeader p.m hsize p.len
  refine holdsAt_unique ?_ hat (holdsAt_append.mpr ⟨State.framePrologue_header hp, by rwa [hheader]⟩)
  rw [List.length_append, hheader, hf, hl]
  omega

/-! ## The blocks of a content, encrypted and decrypted -/

section
variable {k : KeySet} (h : matchingKeys k s.dkey)
include h

theorem matchingKeys.keyUsable : keyUsable s.dkey = true := by
  refine keyUsable_eq_true.mpr fun ⟨i, hi⟩ => h.modWord_ne_zero i ?_
  obtain ⟨hmod, -⟩ := h i
  rw [← hmod, hi]

/-- Decoding the encryptions of the blocks of a content gives the content, and no checksum is tolerated. -/
theorem State.decodeBlocks_encodeBlocks {n a : Nat} {c : List Byte} (hle : c.length ≤ 8 * n) (hlt : 8 * n < c.length + 8)
    (hat : holdsAt s.buf a (encodeBlocks s.params.encMixOrder k n c)) (warn : Bool) :
    s.decodeBlocks n a warn = .ok (c, warn) := by
  induction n generalizing a c with
  | zero =>
    rw [List.eq_nil_of_length_eq_zero (Nat.le_zero.mp hle)]
    rfl
  | succ n ih =>
    rw [encodeBlocks, holdsAt_append, length_encodeBlock] at hat
    obtain ⟨hfirst, hrest⟩ := hat
    have hsize : (c.take 8).length ≤ 8 := List.length_take_le 8 c
    have hblock := decodeBlock_encodeBlock h s.params.encMixOrder hsize
    have haccepted : blockAccepted s.acceptBadCsum
        { o := padBlock (c.take 8), n := (c.take 8).length, ok := true } := by
      refine ⟨.inl rfl, ?_, hsize⟩
      change 1 ≤ (c.take 8).length
      rw [List.length_take]
      omega
    have htake : (padBlock (c.take 8)).take (c.take 8).length = c.take 8 := List.take_left
    have hnext := ih (a := a + 11) (c := c.drop 8) (by simp; omega) (by simp; omega) hrest
    simp only [State.decodeBlocks, State.memRead_of_holdsAt (length_encodeBlock _ _ _) hfirst, Eval.bind_ok, hblock,
      State.checkBlock_eq_ok.mpr ⟨haccepted, rfl⟩, Config.encBlock, Bool.not_true, Bool.or_false, hnext, htake,
      List.take_append_drop]

end

/-- The blocks of a content are as many as it needs: full ones, and a last one that is not empty (30_encoding.md R133). -/
theorem blockCount_bounds (h len : Nat) :
    len - h + 1 ≤ 8 * blockCount h len ∧ 8 * blockCount h len < len - h + 1 + 8 := by
  simp only [blockCount, ceilDiv, Config.decBlock]
  omega

/-! ## The round trip -/

/-- The encrypted frame SMENCF stores for a payload (42_simple_modulus.md R216). -/
def State.encryptedFrame (s : State) (p : Prologue) (payload : List Byte) : List Byte :=
  p.m :: lengthField p.h (encryptedLength p.h p.len) ++
    encodeBlocks s.params.encMixOrder s.ekey (blockCount p.h p.len) (s.ectr.count :: payload)

theorem length_encryptedFrame (hh : p.h = 2 ∨ p.h = 3) (payload : List Byte) :
    (s.encryptedFrame p payload).length = encryptedLength p.h p.len := by
  rw [State.encryptedFrame, length_frame _ hh, length_encodeBlocks]
  rfl

/-- What SMENCF of an encrypted frame has stored, once it has succeeded. -/
theorem smencf_encrypted_success (h : exec .smencf s = .next t) (ht : t.err = false)
    (hp : s.framePrologue s.srcAddr true = .ok p) (hm : plainMarker p.m = false) :
    encryptedLength p.h p.len ≤ lengthLimit p.h ∧ t.result0.toNat = encryptedLength p.h p.len ∧
      ∃ payload, payload.length = p.len - p.h ∧ holdsAt s.buf (s.srcAddr + p.h) payload ∧
        holdsAt t.buf s.dstAddr (s.encryptedFrame p payload) := by
  obtain ⟨q, hq, hcase⟩ := smencf_success h ht
  cases hp.symm.trans hq
  obtain ⟨hplain, -⟩ | ⟨-, -, hlimit, -, payload, hl, hpayload, rfl⟩ := hcase
  · exact absurd hplain (by simp [hm])
  · refine ⟨hlimit, toNat_ofNat_of_frameLength (hlimit.trans_lt (lengthLimit_lt _)), payload, hl, hpayload, ?_⟩
    exact (Memory.storesOnly_writeBytes s.buf s.dstAddr (s.encryptedFrame p payload)).1

/-- A peer with matching keys and the same order and counter reads an encrypted frame back as header and payload. -/
theorem exec_smdecf_of_encryptedFrame {payload : List Byte} (hm : p.m = 0xC3#8 ∨ p.m = 0xC4#8) (hh : p.h = headerSize p.m)
    (hle : p.h ≤ p.len) (hl : payload.length = p.len - p.h)
    (hlimit : encryptedLength p.h p.len ≤ lengthLimit p.h) (hkeys : matchingKeys s.ekey u.dkey)
    (horder : u.params.encMixOrder = s.params.encMixOrder) (hcount : u.dctr.count = s.ectr.count)
    (hat : holdsAt u.buf u.srcAddr (s.encryptedFrame p payload)) (hsrc : u.inBuf u.srcAddr (encryptedLength p.h p.len))
    (hdst : u.inBuf u.dstAddr p.len) :
    exec .smdecf u = .next { succeed u (BitVec.ofNat 32 p.len) (u.dctr.count.setWidth 32) with
      buf := u.buf.writeBytes u.dstAddr (p.m :: lengthField p.h p.len ++ payload), dctr := u.dctr.increase } := by
  have hsize : headerSize p.m = 2 ∨ headerSize p.m = 3 := by rcases hm with h | h <;> simp [h, headerSize]
  obtain ⟨hcontent, hblocks⟩ := blockCount_bounds p.h p.len
  have hheader := length_frameHeader p.m (hh ▸ hsize) (encryptedLength p.h p.len)
  have hlen : encryptedLength p.h p.len - p.h = 11 * blockCount p.h p.len := Nat.add_sub_cancel_left _ _
  rw [State.encryptedFrame, holdsAt_append, hheader, ← horder] at hat
  obtain ⟨hat0, hbody⟩ := hat
  have hprologue : u.framePrologue u.srcAddr true =
      .ok { m := p.m, h := p.h, len := encryptedLength p.h p.len } := by
    rw [hh] at hlimit hsrc hat0 ⊢
    exact State.framePrologue_of_lengthField true hsize (Nat.le_add_right _ _) hlimit hsrc hat0
  have hdecoded := State.decodeBlocks_encodeBlocks hkeys (by simp; omega) (by simp; omega) hbody false
  have hplen : p.h + payload.length = p.len := by omega
  rw [exec_smdecf_of_blocks hprologue (plainMarker_of_encrypted hm) hkeys.keyUsable (by omega) hlen, hdecoded,
    Eval.bind_ok, State.finish_deliverContent hcount.symm (by rwa [hplen]), hplen, Bool.or_false, hcount]
  rfl

/-- Settles O50: the peer reads the frame SMENCF stored, decodes its blocks to the counter byte and the payload, and stores
these under the header of the first frame. -/
theorem encryptedFramesRoundTripBetweenPeers : Obligations.EncryptedFramesRoundTripBetweenPeers := by
  intro s t u p f hp hm hf hat hexec ht hkeys horder hcount hcopy hsrc hdst
  obtain ⟨-, hh, hsize, -, -, hle, -⟩ := State.framePrologue_ok hp
  obtain ⟨hlimit, hresult, payload, hl, hpayload, hstored⟩ :=
    smencf_encrypted_success hexec ht hp (plainMarker_of_encrypted hm)
  rw [hresult] at hcopy hsrc
  have hpeer : holdsAt u.buf u.srcAddr (s.encryptedFrame p payload) :=
    holdsAt_of_read_eq hstored (by rwa [length_encryptedFrame hsize])
  rw [exec_smdecf_of_encryptedFrame hm hh hle hl hlimit hkeys horder hcount hpeer hsrc hdst,
    frame_eq_header_payload hp hf hat hl hpayload]
  exact ⟨_, rfl, Memory.storesOnly_writeBytes _ _ _⟩

end Sys2Proof.Machine
end


/-! PROOFS. The two counters, for every command: only the counter commands and a successful encrypted frame change one
(40_counter.md R164; 42_simple_modulus.md R219). -/
section
namespace Sys2Proof.Machine

variable {s t : State}

/-! ## Commands that keep both counters -/

def keepsCounters (s t : State) : Prop := t.ectr = s.ectr ∧ t.dctr = s.dctr

/-- A failing command keeps both counters: neither of R128's writes is to one. -/
theorem exec_failure_keepsCounters {i : Instr} (h : exec i s = .next t) (ht : t.err = true) : keepsCounters s t := by
  obtain ⟨e, w, -, rfl⟩ := exec_errors h ht
  cases w <;> exact ⟨rfl, rfl⟩

theorem State.payloadByte_keepsCounters {k : Nat} {u : State} (h : s.payloadByte k = .ok u) : keepsCounters s u := by
  obtain ⟨p, -, -, -, b, -, rfl⟩ := State.payloadByte_eq_ok.mp h
  exact ⟨rfl, rfl⟩

theorem State.copyFrame_keepsCounters {len : Nat} {u : State} (h : s.copyFrame len = .ok u) : keepsCounters s u := by
  obtain ⟨-, f, -, rfl⟩ := State.copyFrame_eq_ok.mp h
  exact ⟨rfl, rfl⟩

theorem State.xorPass_keepsCounters {pass : Nat → List Byte → List Byte} {u : State} (h : s.xorPass pass = .ok u) :
    keepsCounters s u := by
  obtain ⟨p, -, f, -, rfl⟩ := State.xorPass_eq_ok.mp h
  exact ⟨rfl, rfl⟩

/-- SMENCB, SMDECB and every command outside the counter and frame families keep both counters when they succeed. -/
theorem exec_success_keepsCounters {i : Instr}
    (hi : i ∉ [.smencf, .smdecf, .ctrinc .ectr, .ctrinc .dctr, .ctrrst .ectr, .ctrrst .dctr])
    (h : exec i s = .next t) (ht : t.err = false) : keepsCounters s t := by
  cases i with
  | nop =>
    cases h.symm.trans (exec_nop s)
    exact ⟨rfl, rfl⟩
  | hdrsize =>
    obtain ⟨-, m, -, rfl⟩ := hdrsize_success h ht
    exact ⟨rfl, rfl⟩
  | declen =>
    obtain ⟨-, b0, b1, b2, -, -, -, rfl⟩ := declen_success h ht
    exact ⟨rfl, rfl⟩
  | pkttype =>
    obtain ⟨u, hu, rfl⟩ := pkttype_success h ht
    exact State.payloadByte_keepsCounters (u := u) hu
  | pktsub =>
    obtain ⟨u, hu, rfl⟩ := pktsub_success h ht
    exact State.payloadByte_keepsCounters (u := u) hu
  | wrhdr =>
    obtain ⟨-, -, -, rfl⟩ := wrhdr_success h ht
    simp [keepsCounters]
  | encsize => obtain ⟨p, -, ⟨-, rfl⟩ | ⟨-, -, rfl⟩⟩ := encsize_success h ht <;> exact ⟨rfl, rfl⟩
  | decsize => obtain ⟨p, -, ⟨-, rfl⟩ | ⟨-, -, rfl⟩⟩ := decsize_success h ht <;> exact ⟨rfl, rfl⟩
  | shift =>
    obtain ⟨-, -, -, src, dst, -, -, -, -, rfl⟩ | ⟨-, rfl⟩ := shift_success h ht <;> simp [keepsCounters]
  | smencb =>
    obtain ⟨-, -, -, -, b, -, -, rfl⟩ := smencb_success h ht
    simp [keepsCounters]
  | smdecb =>
    obtain ⟨-, -, -, eb, p, -, -, -, -, rfl⟩ := smdecb_success h ht
    simp [keepsCounters]
  | xorenc =>
    obtain ⟨u, hu, rfl⟩ := xorenc_success h ht
    exact State.xorPass_keepsCounters (u := u) hu
  | xordec =>
    obtain ⟨u, hu, rfl⟩ := xordec_success h ht
    exact State.xorPass_keepsCounters (u := u) hu
  | strfeed =>
    obtain ⟨-, -, -, bs, -, -, rfl⟩ := strfeed_success h ht
    exact ⟨rfl, rfl⟩
  | strnext =>
    obtain ⟨-, ⟨len, -, -, rfl⟩ | ⟨rest, -, -, rfl⟩⟩ := strnext_success h ht <;> exact ⟨rfl, rfl⟩
  | strclose =>
    cases h.symm.trans (exec_strclose s)
    exact ⟨rfl, rfl⟩
  | strreset =>
    cases h.symm.trans (exec_strreset s)
    exact ⟨rfl, rfl⟩
  | smencf | smdecf => simp at hi
  | ctrinc sel | ctrrst sel => cases sel <;> simp at hi

/-! ## The frame commands (42_simple_modulus.md R218, R219) -/

/-- The frame at SRC begins with an encrypted marker. -/
def encryptedAtSrc (s : State) : Prop := ∃ m, s.buf.read s.src.toNat = some m ∧ (m = 0xC3#8 ∨ m = 0xC4#8)

/-- Where FramePrologue returns, the marker it returns says whether the frame at SRC is an encrypted one. -/
theorem encryptedAtSrc_iff {p : Prologue} (hp : s.framePrologue s.srcAddr true = .ok p) :
    encryptedAtSrc s ↔ plainMarker p.m = false := by
  obtain ⟨hm, hh, hsize, -⟩ := State.framePrologue_ok hp
  constructor
  · rintro ⟨m, hread, hmarker⟩
    cases hm.symm.trans hread
    exact plainMarker_of_encrypted hmarker
  · intro hplain
    exact ⟨p.m, hm, encrypted_of_not_plain (by omega) hplain⟩

theorem smencf_counters (h : exec .smencf s = .next t) (ht : t.err = false) :
    t.dctr = s.dctr ∧ (encryptedAtSrc s ∧ t.ectr = s.ectr.increase ∨ ¬ encryptedAtSrc s ∧ t.ectr = s.ectr) := by
  obtain ⟨p, hp, ⟨hm, u, hu, rfl⟩ | ⟨hm, -, -, -, payload, -, -, rfl⟩⟩ := smencf_success h ht
  · obtain ⟨hectr, hdctr⟩ := State.copyFrame_keepsCounters (u := u) hu
    exact ⟨hdctr, .inr ⟨by simp [encryptedAtSrc_iff hp, hm], hectr⟩⟩
  · exact ⟨by simp, .inl ⟨(encryptedAtSrc_iff hp).mpr hm, by simp⟩⟩

theorem smdecf_counters (h : exec .smdecf s = .next t) (ht : t.err = false) :
    t.ectr = s.ectr ∧ (encryptedAtSrc s ∧ t.dctr = s.dctr.increase ∨ ¬ encryptedAtSrc s ∧ t.dctr = s.dctr) := by
  obtain ⟨p, hp, ⟨hm, u, hu, rfl⟩ | ⟨hm, -, -, c, warn, -, -, -, rfl⟩⟩ := smdecf_success h ht
  · obtain ⟨hectr, hdctr⟩ := State.copyFrame_keepsCounters (u := u) hu
    exact ⟨hectr, .inr ⟨by simp [encryptedAtSrc_iff hp, hm], hdctr⟩⟩
  · exact ⟨by simp, .inl ⟨(encryptedAtSrc_iff hp).mpr hm, by simp⟩⟩

/-! ## The statement -/

/-- The counter commands write the counter SEL names alone (40_counter.md R162, R163). -/
theorem State.setCounter_counters (s : State) (sel : CtrSel) (c : Counter) :
    ((s.setCounter sel c).ectr = s.ectr ∨ sel = .ectr) ∧ ((s.setCounter sel c).dctr = s.dctr ∨ sel = .dctr) := by
  cases sel with
  | ectr => exact ⟨.inr rfl, .inl rfl⟩
  | dctr => exact ⟨.inl rfl, .inr rfl⟩

/-- What a success leaves of the two counters, for every command. -/
theorem exec_success_counters {i : Instr} (h : exec i s = .next t) (ht : t.err = false) :
    (t.ectr = s.ectr ∨ i = .ctrinc .ectr ∨ i = .ctrrst .ectr ∨
      (i = .smencf ∧ t.err = false ∧ t.ectr = s.ectr.increase ∧ encryptedAtSrc s)) ∧
    (t.dctr = s.dctr ∨ i = .ctrinc .dctr ∨ i = .ctrrst .dctr ∨
      (i = .smdecf ∧ t.err = false ∧ t.dctr = s.dctr.increase ∧ encryptedAtSrc s)) := by
  cases i with
  | ctrinc sel =>
    cases h.symm.trans (exec_ctrinc sel s)
    obtain ⟨hectr, hdctr⟩ := s.setCounter_counters sel (s.counter sel).increase
    exact ⟨hectr.imp_right fun hs => .inl (congrArg _ hs), hdctr.imp_right fun hs => .inl (congrArg _ hs)⟩
  | ctrrst sel =>
    cases h.symm.trans (exec_ctrrst sel s)
    obtain ⟨hectr, hdctr⟩ := s.setCounter_counters sel (s.counter sel).restart
    exact ⟨hectr.imp_right fun hs => .inr (.inl (congrArg _ hs)), hdctr.imp_right fun hs => .inr (.inl (congrArg _ hs))⟩
  | smencf =>
    obtain ⟨hdctr, ⟨hencrypted, hectr⟩ | ⟨-, hectr⟩⟩ := smencf_counters h ht
    · exact ⟨.inr (.inr (.inr ⟨rfl, ht, hectr, hencrypted⟩)), .inl hdctr⟩
    · exact ⟨.inl hectr, .inl hdctr⟩
  | smdecf =>
    obtain ⟨hectr, ⟨hencrypted, hdctr⟩ | ⟨-, hdctr⟩⟩ := smdecf_counters h ht
    · exact ⟨.inl hectr, .inr (.inr (.inr ⟨rfl, ht, hdctr, hencrypted⟩))⟩
    · exact ⟨.inl hectr, .inl hdctr⟩
  | _ =>
    obtain ⟨hectr, hdctr⟩ := exec_success_keepsCounters (by simp) h ht
    exact ⟨.inl hectr, .inl hdctr⟩

/-- Settles O14: a success changes a counter only as its command says, and a failure changes none. -/
theorem countersAdvanceOnlyOnSuccess : Obligations.CountersAdvanceOnlyOnSuccess := by
  intro i s t h
  cases ht : t.err with
  | false =>
    obtain ⟨hectr, hdctr⟩ := exec_success_counters h ht
    rw [ht] at hectr hdctr
    refine ⟨hectr, hdctr, ?_, ?_, nofun⟩
    · rintro rfl - hencrypted
      obtain ⟨-, ⟨-, hinc⟩ | ⟨hplain, -⟩⟩ := smencf_counters h ht
      · exact hinc
      · exact absurd hencrypted hplain
    · rintro rfl - hencrypted
      obtain ⟨-, ⟨-, hinc⟩ | ⟨hplain, -⟩⟩ := smdecf_counters h ht
      · exact hinc
      · exact absurd hencrypted hplain
  | true =>
    obtain ⟨hectr, hdctr⟩ := exec_failure_keepsCounters h ht
    exact ⟨.inl hectr, .inl hdctr, nofun, nofun, fun _ => ⟨hectr, hdctr⟩⟩

end Sys2Proof.Machine
end


/-! PROOFS. The XOR-32 pass: the byte each index is left with, the two passes as inverses, and both on the machine
(43_xor32.md). -/
section
namespace Sys2Proof.Machine

variable {s t : State} {p : Prologue}

/-! ## The key byte and one step of a pass (43_xor32.md R250) -/

theorem x32_of_word (key : Vector Word 8) (j : Fin 8) (b n : Nat) (hb : b < 4) :
    x32 key (4 * j.val + b + 32 * n) = key[j.val].extractLsb' (8 * b) 8 := by
  have hword : (4 * j.val + b + 32 * n) % 32 / 4 = j.val := by omega
  have hbyte : (4 * j.val + b + 32 * n) % 4 = b := by omega
  rw [x32, hword, hbyte]
  simp

section
variable (key : Vector Word 8)

theorem getElem?_xorAt_self {f : List Byte} {i : Nat} {x y : Byte} (hx : f[i]? = some x) (hy : f[i - 1]? = some y) :
    (xorAt key f i)[i]? = some (x ^^^ y ^^^ x32 key i) := by
  obtain ⟨hi, -⟩ := List.getElem?_eq_some_iff.mp hx
  rw [xorAt, List.getElem?_set_self hi, List.getD_eq_getElem?_getD, List.getD_eq_getElem?_getD, hx, hy]
  rfl

/-- A step made twice is undone: the neighbour and the key byte it adds are the same both times. -/
theorem xorAt_xorAt (f : List Byte) {i : Nat} (hi : 0 < i) : xorAt key (xorAt key f i) i = f := by
  by_cases hlt : i < f.length
  · have hself : (xorAt key f i).getD i 0#8 = f.getD i 0#8 ^^^ f.getD (i - 1) 0#8 ^^^ x32 key i := by
      simp [xorAt, hlt]
    have hprev : (xorAt key f i).getD (i - 1) 0#8 = f.getD (i - 1) 0#8 := by
      simp [xorAt, List.getElem?_set_ne (show i ≠ i - 1 by omega)]
    have hcancel (x y z : Byte) : x ^^^ y ^^^ z ^^^ y ^^^ z = x := by grind
    rw [xorAt, hself, hprev, hcancel, xorAt, List.set_set]
    simp [hlt]
  · have hle : f.length ≤ i := by omega
    rw [xorAt, List.set_eq_of_length_le (by simpa using hle), xorAt, List.set_eq_of_length_le hle]

/-! ## A pass over a list of indices -/

/-- The byte at an index the pass visits once: its neighbour is as the indices before it have left it. -/
theorem getElem?_foldl_xorAt_of_split {before after : List Nat} {f : List Byte} {i : Nat} {x y : Byte}
    (hbefore : i ∉ before) (hafter : i ∉ after) (hx : f[i]? = some x)
    (hy : (before.foldl (xorAt key) f)[i - 1]? = some y) :
    ((before ++ i :: after).foldl (xorAt key) f)[i]? = some (x ^^^ y ^^^ x32 key i) := by
  rw [← getElem?_foldl_xorAt_of_notMem key f hbefore] at hx
  rw [List.foldl_append, List.foldl_cons, getElem?_foldl_xorAt_of_notMem key _ hafter]
  exact getElem?_xorAt_self key hx hy

/-- A pass is undone by the pass over the same indices in the opposite order. -/
theorem foldl_xorAt_reverse {is : List Nat} (his : ∀ i ∈ is, 0 < i) (f : List Byte) :
    is.reverse.foldl (xorAt key) (is.foldl (xorAt key) f) = f := by
  induction is generalizing f with
  | nil => rfl
  | cons i is ih =>
    rw [List.forall_mem_cons] at his
    obtain ⟨hi, his⟩ := his
    rw [List.reverse_cons, List.foldl_append, List.foldl_cons (l := is), ih his]
    exact xorAt_xorAt key f hi

/-! ## The encode pass and the decode pass (43_xor32.md R251 to R253) -/

theorem pos_of_mem_xorRange {h len i : Nat} (hi : i ∈ xorRange h len) : 0 < i := by
  rw [xorRange, List.mem_range'_1] at hi
  omega

/-- An index of the pass parts the range into the indices below it and those above it. -/
theorem xorRange_split {h len i : Nat} (hlow : h < i) (hhigh : i < len) :
    ∃ below above, xorRange h len = below ++ i :: above ∧ (∀ j ∈ below, j < i) ∧ ∀ j ∈ above, i < j := by
  refine ⟨List.range' (h + 1) (i - (h + 1)), List.range' (i + 1) (len - (i + 1)), ?_, fun j hj => ?_, fun j hj => ?_⟩
  · have hstart : h + 1 + (i - (h + 1)) = i := by omega
    have hcount : len - (h + 1) = i - (h + 1) + (len - (i + 1) + 1) := by omega
    rw [xorRange, hcount, ← List.range'_append_1, hstart, List.range'_succ]
  · rw [List.mem_range'_1] at hj
    omega
  · rw [List.mem_range'_1] at hj
    omega

theorem getElem?_xorEncode_of_le {h : Nat} (f : List Byte) {i : Nat} (hi : i ≤ h) : (xorEncode key h f)[i]? = f[i]? :=
  getElem?_foldl_xorAt_of_notMem key f (notMem_xorRange hi)

theorem getElem?_xorDecode_of_le {h : Nat} (f : List Byte) {i : Nat} (hi : i ≤ h) : (xorDecode key h f)[i]? = f[i]? :=
  getElem?_foldl_xorAt_of_notMem key f (mt List.mem_reverse.mp (notMem_xorRange hi))

/-- Ascending, the neighbour below has its encoded value already, and keeps it. -/
theorem getElem?_xorEncode {h i : Nat} {f : List Byte} {x y : Byte} (hi : h < i) (hx : f[i]? = some x)
    (hy : (xorEncode key h f)[i - 1]? = some y) : (xorEncode key h f)[i]? = some (x ^^^ y ^^^ x32 key i) := by
  obtain ⟨hlen, -⟩ := List.getElem?_eq_some_iff.mp hx
  obtain ⟨below, above, hrange, hbelow, habove⟩ := xorRange_split hi hlen
  have hprev : i - 1 ∉ i :: above := by
    rw [List.mem_cons, not_or]
    exact ⟨by omega, fun hmem => absurd (habove _ hmem) (by omega)⟩
  rw [xorEncode, hrange, List.foldl_append, getElem?_foldl_xorAt_of_notMem key _ hprev] at hy
  rw [xorEncode, hrange]
  exact getElem?_foldl_xorAt_of_split key (fun hmem => (hbelow i hmem).false) (fun hmem => (habove i hmem).false) hx hy

/-- Descending, the neighbour below has not been visited yet. -/
theorem getElem?_xorDecode {h i : Nat} {f : List Byte} {x y : Byte} (hi : h < i) (hx : f[i]? = some x)
    (hy : f[i - 1]? = some y) : (xorDecode key h f)[i]? = some (x ^^^ y ^^^ x32 key i) := by
  obtain ⟨hlen, -⟩ := List.getElem?_eq_some_iff.mp hx
  obtain ⟨below, above, hrange, hbelow, habove⟩ := xorRange_split hi hlen
  have hprev : i - 1 ∉ above.reverse := fun hmem => absurd (habove _ (List.mem_reverse.mp hmem)) (by omega)
  rw [← getElem?_foldl_xorAt_of_notMem key f hprev] at hy
  rw [xorDecode, hrange, List.reverse_append, List.reverse_cons, List.append_assoc, List.singleton_append]
  exact getElem?_foldl_xorAt_of_split key (fun hmem => (habove i (List.mem_reverse.mp hmem)).false)
    (fun hmem => (hbelow i (List.mem_reverse.mp hmem)).false) hx hy

theorem xorDecode_xorEncode (h : Nat) (f : List Byte) : xorDecode key h (xorEncode key h f) = f := by
  rw [xorDecode, length_xorEncode]
  exact foldl_xorAt_reverse key (fun _ => pos_of_mem_xorRange) f

theorem xorEncode_xorDecode (h : Nat) (f : List Byte) : xorEncode key h (xorDecode key h f) = f := by
  have hundo := foldl_xorAt_reverse key (is := (xorRange h f.length).reverse)
    (fun _ hi => pos_of_mem_xorRange (List.mem_reverse.mp hi)) f
  rw [List.reverse_reverse] at hundo
  rw [xorEncode, length_xorDecode]
  exact hundo

end

/-! ## A pass on the machine -/

theorem State.finish_xorPass_of_unwritten (pass : Nat → List Byte → List Byte)
    (hp : s.framePrologue s.srcAddr true = .ok p) (hu : unwrittenIn s.buf s.srcAddr p.len) :
    s.finish (s.xorPass pass) = .fault .unwrittenRead := by
  rw [State.xorPass, hp, Eval.bind_ok, State.memRead_of_unwritten hu, Eval.bind_fault, State.finish_fault]

theorem State.finish_xorPass_of_holdsAt (pass : Nat → List Byte → List Byte) {f : List Byte}
    (hp : s.framePrologue s.srcAddr true = .ok p) (hl : f.length = p.len) (hf : holdsAt s.buf s.srcAddr f) :
    s.finish (s.xorPass pass) = .next { succeed s (BitVec.ofNat 32 p.len) (BitVec.ofNat 32 p.h) with
      buf := s.buf.writeBytes s.srcAddr (pass p.h f) } := by
  rw [State.xorPass, hp, Eval.bind_ok, State.memRead_of_holdsAt hl hf, Eval.bind_ok, State.finish_ok,
    completeOk_withResults_memWrite]

/-- Storing a region's own bytes back over others of the same length gives back every byte. -/
theorem read_writeBytes_writeBytes {m : Memory} {a : Nat} {f g : List Byte} (hf : holdsAt m a f)
    (hl : g.length = f.length) (x : Nat) : ((m.writeBytes a g).writeBytes a f).read x = m.read x := by
  obtain ⟨hin, hout⟩ := Memory.storesOnly_writeBytes (m.writeBytes a g) a f
  by_cases hx : x < a ∨ a + f.length ≤ x
  · rw [hout x hx, (Memory.storesOnly_writeBytes m a g).2 x (by omega)]
  · obtain ⟨j, rfl⟩ : ∃ j, x = a + j := ⟨x - a, by omega⟩
    have hj : f[j]? = some (f[j]'(by omega)) := List.getElem?_eq_getElem (by omega)
    rw [hin j _ hj, hf j _ hj]

/-- FramePrologue depends on the parameters and on the bytes of the header alone. -/
theorem State.framePrologue_of_header_kept (hp : s.framePrologue s.srcAddr true = .ok p) (hparams : t.params = s.params)
    (hkeep : ∀ j, j < p.h → t.buf.read (s.srcAddr + j) = s.buf.read (s.srcAddr + j)) :
    t.framePrologue s.srcAddr true = .ok p := by
  have hheader := State.framePrologue_header hp
  obtain ⟨-, hh, hsize, -, ⟨b1, b2, -, -, hlen⟩, hle, -, hin⟩ := State.framePrologue_ok hp
  have hkept : holdsAt t.buf s.srcAddr (p.m :: lengthField p.h p.len) :=
    holdsAt_of_read_eq hheader (by rwa [length_frameHeader p.m hsize])
  have hlimit : p.len ≤ lengthLimit (headerSize p.m) := hlen ▸ declaredLength_le p.m b1 b2
  rw [hh] at hsize hle hkept
  rw [State.framePrologue_of_lengthField true hsize hle hlimit (by simpa [State.inBuf, hparams] using hin) hkept, ← hh]

/-- A keyed pass that keeps the header is undone on the machine by one that undoes it on byte strings, since it keeps the
key too (43_xor32.md R253). -/
theorem State.xorPass_undone {pass undo : Vector Word 8 → Nat → List Byte → List Byte}
    (hlen : ∀ key n f, (pass key n f).length = f.length) (hkeep : ∀ key n f j, j ≤ n → (pass key n f)[j]? = f[j]?)
    (hundo : ∀ key n f, undo key n (pass key n f) = f) (h : s.finish (s.xorPass (pass s.xkeyw)) = .next t)
    (ht : t.err = false) :
    t.framePrologue t.srcAddr true = s.framePrologue s.srcAddr true ∧
      ∃ u, t.finish (t.xorPass (undo t.xkeyw)) = .next u ∧ u.err = false ∧ ∀ a, u.buf.read a = s.buf.read a := by
  obtain ⟨v, hv, rfl⟩ := State.finish_success h ht
  obtain ⟨p, hp, f, ⟨hl, hf⟩, rfl⟩ := State.xorPass_eq_ok.mp hv
  have hheader (j : Nat) (hj : j < p.h) :
      (s.buf.writeBytes s.srcAddr (pass s.xkeyw p.h f)).read (s.srcAddr + j) = s.buf.read (s.srcAddr + j) :=
    read_writeBytes_of_agree hf (hlen _ _ f) fun _ => hkeep _ _ f _ (by omega)
  have hprologue := State.framePrologue_of_header_kept
    (t := ((s.memWrite s.srcAddr (pass s.xkeyw p.h f)).withResults p.len p.h).completeOk) hp rfl hheader
  obtain ⟨hpassed, -⟩ := Memory.storesOnly_writeBytes s.buf s.srcAddr (pass s.xkeyw p.h f)
  refine ⟨hprologue.trans hp.symm, _,
    State.finish_xorPass_of_holdsAt (undo s.xkeyw) hprologue ((hlen _ _ f).trans hl) hpassed, rfl, ?_⟩
  rw [hundo]
  exact read_writeBytes_writeBytes hf (hlen _ _ f)

/-! ## The statements -/

/-- Settles O51: ascending, each byte meets its neighbour's encoded value. -/
theorem xorencChainsFromTheFront : Obligations.XorencChainsFromTheFront := by
  refine ⟨rfl, x32_of_word, fun s e w he => State.finish_bind_of_framePrologue_err he _,
    fun s r hr => State.finish_bind_of_framePrologue_fault hr _, fun s p hp => ⟨fun hu => ?_, fun f hl hf => ?_⟩⟩
  · exact State.finish_xorPass_of_unwritten _ hp hu
  · exact ⟨xorEncode s.xkeyw p.h f, _, State.finish_xorPass_of_holdsAt _ hp hl hf, Memory.storesOnly_writeBytes _ _ _,
      (length_xorEncode _ _ _).trans hl, fun i => getElem?_xorEncode_of_le _ f, fun i x y => getElem?_xorEncode _⟩

/-- Settles O52: descending, each byte meets its neighbour's value before the pass. -/
theorem xordecChainsFromTheBack : Obligations.XordecChainsFromTheBack := by
  refine ⟨rfl, fun s e w he => State.finish_bind_of_framePrologue_err he _,
    fun s r hr => State.finish_bind_of_framePrologue_fault hr _, fun s p hp => ⟨fun hu => ?_, fun f hl hf => ?_⟩⟩
  · exact State.finish_xorPass_of_unwritten _ hp hu
  · exact ⟨xorDecode s.xkeyw p.h f, _, State.finish_xorPass_of_holdsAt _ hp hl hf, Memory.storesOnly_writeBytes _ _ _,
      (length_xorDecode _ _ _).trans hl, fun i => getElem?_xorDecode_of_le _ f, fun i x y => getElem?_xorDecode _⟩

/-- The state after reset, with the frame C1 05 01 02 03 at address 0: a pass changes its last two bytes. -/
def frameOfTwoPassBytes : State :=
  { State.reset with buf := [(0, 0xC1), (1, 5), (2, 1), (3, 2), (4, 3)] }

/-- Settles O53: each pass keeps the header, so the other one runs on the same frame and undoes it; either one made twice
leaves another value in the last byte of a frame whose pass changes two. -/
theorem xorPassesUndoEachOther : Obligations.XorPassesUndoEachOther :=
  ⟨fun _ _ => State.xorPass_undone length_xorEncode (fun key _ f _ => getElem?_xorEncode_of_le key f) xorDecode_xorEncode,
    fun _ _ => State.xorPass_undone length_xorDecode (fun key _ f _ => getElem?_xorDecode_of_le key f) xorEncode_xorDecode,
    ⟨frameOfTwoPassBytes, _, _, 4, rfl, rfl, rfl, by decide⟩,
    ⟨frameOfTwoPassBytes, _, _, 4, rfl, rfl, rfl, by decide⟩⟩

end Sys2Proof.Machine
end

/-! PROOFS. The framer's commands: HDRSIZE, DECLEN, PKTTYPE, PKTSUB and WRHDR (44_framer.md). -/
section
namespace Sys2Proof.Machine

variable {s t : State}

/-! ## HDRSIZE (44_framer.md R272) -/

/-- Settles O30: the check, then the read. -/
theorem hdrsizeGivesHeaderSizeAndMarker : Obligations.HdrsizeGivesHeaderSizeAndMarker := by
  refine ⟨rfl, fun s => ?_⟩
  rw [exec, execHdrsize]
  refine ⟨fun hout => ?_, fun hr hnone => ?_, fun m hr hm => ?_⟩
  · rw [Eval.check_neg hout.not_ge]
    rfl
  · rw [Eval.check_pos hr, State.memByte_of_none hnone, Eval.bind_fault, State.finish_fault]
  · rw [Eval.check_pos hr, State.memByte_of_some hm, Eval.bind_ok, State.finish_ok, State.completeOk_withResults,
      BitVec.ofNat_toNat]

/-! ## DECLEN (44_framer.md R273) -/

/-- Reading the first byte of a region with an unwritten byte is its fault, or leaves one in the rest of the region. -/
theorem State.memByte_bind_of_unwritten {α : Type} {a n : Nat} {f : Byte → Eval α} (hu : unwrittenIn s.buf a (n + 1))
    (hrest : ∀ b, unwrittenIn s.buf (a + 1) n → f b = .fault .unwrittenRead) :
    (s.memByte a).bind f = .fault .unwrittenRead := by
  obtain ⟨j, hj, hnone⟩ := hu
  cases h : s.buf.read a with
  | none => rw [State.memByte_of_none h, Eval.bind_fault]
  | some b =>
    rw [State.memByte_of_some h, Eval.bind_ok]
    cases j with
    | zero => exact absurd (h.symm.trans hnone) nofun
    | succ j => exact hrest b ⟨j, by omega, by rwa [Nat.add_assoc, Nat.add_comm 1 j]⟩

theorem exec_declen_of_unwritten (hr : s.inBuf s.srcAddr 3) (hu : unwrittenIn s.buf s.srcAddr 3) :
    exec .declen s = .fault .unwrittenRead := by
  rw [exec, execDeclen, Eval.check_pos hr, State.memByte_bind_of_unwritten hu fun b0 hu =>
    State.memByte_bind_of_unwritten hu fun b1 hu =>
    State.memByte_bind_of_unwritten hu fun b2 ⟨j, hj, _⟩ => absurd hj j.not_lt_zero, State.finish_fault]

theorem exec_declen_of_holdsAt {b0 b1 b2 : Byte} (hr : s.inBuf s.srcAddr 3) (hb : holdsAt s.buf s.srcAddr [b0, b1, b2]) :
    exec .declen s =
      .next (succeed s (BitVec.ofNat 32 (declaredLength b0 b1 b2)) (BitVec.ofNat 32 (headerSize b0))) := by
  have h0 : s.buf.read s.srcAddr = some b0 := hb 0 b0 rfl
  rw [exec, execDeclen, Eval.check_pos hr, State.memByte_of_some h0, Eval.bind_ok,
    State.memByte_of_some (hb 1 b1 rfl), Eval.bind_ok, State.memByte_of_some (hb 2 b2 rfl), Eval.bind_ok,
    State.finish_ok, State.completeOk_withResults]

/-- Settles O31: the check, then the three reads. -/
theorem declenGivesDeclaredLength : Obligations.DeclenGivesDeclaredLength := by
  refine ⟨rfl, fun s => ⟨fun hout => ?_, exec_declen_of_unwritten, fun b0 b1 b2 => exec_declen_of_holdsAt⟩⟩
  rw [exec, execDeclen, Eval.check_neg hout.not_ge]
  rfl

/-! ## PKTTYPE and PKTSUB once FramePrologue has passed (44_framer.md R274, R275) -/

section
variable {p : Prologue} {k : Nat}

theorem State.finish_payloadByte_of_short (hp : s.framePrologue s.srcAddr false = .ok p) (hl : p.len < p.h + (k + 1)) :
    s.finish (s.payloadByte k) = .next (failWith s .invalidLength) := by
  rw [State.payloadByte, hp, Eval.bind_ok, Eval.check_neg hl.not_ge]
  rfl

theorem State.finish_payloadByte_of_outOfRange (hp : s.framePrologue s.srcAddr false = .ok p)
    (hl : p.h + (k + 1) ≤ p.len) (hout : s.params.bufSize < s.srcAddr + (p.h + (k + 1))) :
    s.finish (s.payloadByte k) = .next (failWith s .bufRange) := by
  rw [State.payloadByte, hp, Eval.bind_ok, Eval.check_pos hl, Eval.check_neg hout.not_ge]
  rfl

theorem State.finish_payloadByte_of_unwritten (hp : s.framePrologue s.srcAddr false = .ok p)
    (hl : p.h + (k + 1) ≤ p.len) (hr : s.inBuf s.srcAddr (p.h + (k + 1)))
    (hnone : s.buf.read (s.srcAddr + (p.h + k)) = none) :
    s.finish (s.payloadByte k) = .fault .unwrittenRead := by
  rw [State.payloadByte, hp, Eval.bind_ok, Eval.check_pos hl, Eval.check_pos hr, State.memByte_of_none hnone,
    Eval.bind_fault, State.finish_fault]

theorem State.finish_payloadByte_of_written {b : Byte} (hp : s.framePrologue s.srcAddr false = .ok p)
    (hl : p.h + (k + 1) ≤ p.len) (hr : s.inBuf s.srcAddr (p.h + (k + 1)))
    (hb : s.buf.read (s.srcAddr + (p.h + k)) = some b) :
    s.finish (s.payloadByte k) = .next (succeed s (b.setWidth 32) (BitVec.ofNat 32 p.len)) := by
  rw [State.payloadByte, hp, Eval.bind_ok, Eval.check_pos hl, Eval.check_pos hr, State.memByte_of_some hb,
    Eval.bind_ok, State.finish_ok, State.completeOk_withResults, BitVec.ofNat_toNat]

end

/-- Settles O33: both are `payloadByte`, PKTTYPE at index 0 and PKTSUB at index 1. -/
theorem pkttypeAndPktsubGivePayloadBytes : Obligations.PkttypeAndPktsubGivePayloadBytes := by
  refine ⟨rfl, rfl, fun s e w he => ?_, fun s r hr => ?_, fun s p hp => ?_⟩
  · exact ⟨State.finish_bind_of_framePrologue_err he _, State.finish_bind_of_framePrologue_err he _⟩
  · exact ⟨State.finish_bind_of_framePrologue_fault hr _, State.finish_bind_of_framePrologue_fault hr _⟩
  · exact ⟨State.finish_payloadByte_of_short (k := 0) hp, State.finish_payloadByte_of_outOfRange (k := 0) hp,
      State.finish_payloadByte_of_unwritten (k := 0) hp, fun _ => State.finish_payloadByte_of_written (k := 0) hp,
      State.finish_payloadByte_of_short (k := 1) hp, State.finish_payloadByte_of_outOfRange (k := 1) hp,
      State.finish_payloadByte_of_unwritten (k := 1) hp, fun _ => State.finish_payloadByte_of_written (k := 1) hp⟩

/-! ## WRHDR (44_framer.md R276) -/

/-- The low byte of LEN is the length field of a short header. -/
theorem lengthField_short (w : Word) : lengthField 2 w.toNat = [w.extractLsb' 0 8] := by
  rw [lengthField, if_pos rfl, BitVec.extractLsb', Nat.shiftRight_zero]

/-- The two low bytes of LEN, the higher one first, are the length field of a long header. -/
theorem lengthField_long (w : Word) : lengthField 3 w.toNat = [w.extractLsb' 8 8, w.extractLsb' 0 8] := by
  rw [lengthField, if_neg (by decide), BitVec.extractLsb', BitVec.extractLsb', Nat.shiftRight_eq_div_pow,
    Nat.shiftRight_zero]

/-- WRHDR with its checks in order and its writes, for the header size h of its marker operand. -/
theorem exec_wrhdr {h : Nat} (hm : headerSize s.markerOperand = h) :
    exec .wrhdr s = s.finish (
      Eval.check (h ≠ 0) .invalidHeaderMarker <|
      Eval.check (1 ≤ s.lenVal ∧ s.lenVal ≤ lengthLimit h) .invalidLength <|
      Eval.check (s.inBuf s.dstAddr h) .bufRange <|
      .ok ((s.memWrite s.dstAddr (s.markerOperand :: lengthField h s.lenVal)).withResults h 0)) := by
  subst hm
  rfl

section
variable {h : Nat}

theorem exec_wrhdr_of_badMarker (hm : headerSize s.markerOperand = 0) :
    exec .wrhdr s = .next (failWith s .invalidHeaderMarker) := by
  rw [exec_wrhdr hm, Eval.check_neg (not_not.mpr rfl)]
  rfl

theorem exec_wrhdr_of_badLength (h0 : h ≠ 0) (hm : headerSize s.markerOperand = h)
    (hl : s.lenVal = 0 ∨ lengthLimit h < s.lenVal) : exec .wrhdr s = .next (failWith s .invalidLength) := by
  rw [exec_wrhdr hm, Eval.check_pos h0, Eval.check_neg (by omega)]
  rfl

theorem exec_wrhdr_of_outOfRange (h0 : h ≠ 0) (hm : headerSize s.markerOperand = h) (hl : 1 ≤ s.lenVal)
    (hlimit : s.lenVal ≤ lengthLimit h) (hout : s.params.bufSize < s.dstAddr + h) :
    exec .wrhdr s = .next (failWith s .bufRange) := by
  rw [exec_wrhdr hm, Eval.check_pos h0, Eval.check_pos ⟨hl, hlimit⟩, Eval.check_neg hout.not_ge]
  rfl

/-- WRHDR past its checks stores the marker and the length field, and nothing else. -/
theorem exec_wrhdr_of_inRange (h0 : h ≠ 0) (hm : headerSize s.markerOperand = h) (hl : 1 ≤ s.lenVal)
    (hlimit : s.lenVal ≤ lengthLimit h) (hr : s.inBuf s.dstAddr h) :
    ∃ buf, exec .wrhdr s = .next { succeed s (BitVec.ofNat 32 h) 0#32 with buf := buf } ∧
      storesOnly s.buf buf s.dstAddr (s.markerOperand :: lengthField h s.lenVal) := by
  refine ⟨_, ?_, Memory.storesOnly_writeBytes _ _ _⟩
  rw [exec_wrhdr hm, Eval.check_pos h0, Eval.check_pos ⟨hl, hlimit⟩, Eval.check_pos hr, State.finish_ok,
    completeOk_withResults_memWrite]

end

/-- Settles O34: each check and the write, for a short and for a long header. -/
theorem wrhdrWritesTheHeader : Obligations.WrhdrWritesTheHeader := by
  refine ⟨rfl, fun s => ?_⟩
  have h2 : (2 : Nat) ≠ 0 := by decide
  have h3 : (3 : Nat) ≠ 0 := by decide
  refine ⟨exec_wrhdr_of_badMarker, exec_wrhdr_of_badLength h2, exec_wrhdr_of_badLength h3, exec_wrhdr_of_outOfRange h2,
    exec_wrhdr_of_outOfRange h3, ?_, ?_⟩
  · rw [← lengthField_short]
    exact exec_wrhdr_of_inRange h2
  · rw [← lengthField_long]
    exact exec_wrhdr_of_inRange h3

/-! ## WRHDR, then DECLEN (44_framer.md R276) -/

/-- The three bytes from a stored header on declare its length; the third is free for a short header. -/
theorem holdsAt_header_declaredLength {m : Memory} {a len : Nat} {b0 b2 : Byte}
    (hh : headerSize b0 = 2 ∨ headerSize b0 = 3) (hlen : len ≤ lengthLimit (headerSize b0))
    (hheader : holdsAt m a (b0 :: lengthField (headerSize b0) len)) (h2 : m.read (a + 2) = some b2) :
    ∃ b1, holdsAt m a [b0, b1, b2] ∧ declaredLength b0 b1 b2 = len := by
  obtain ⟨b1, c2, rfl, hfield⟩ := declaredLength_lengthField hh hlen
  rw [hfield] at hheader
  rcases hh with hshort | hlong
  · rw [if_pos hshort] at hheader
    refine ⟨b1, holdsAt_append.mpr ⟨hheader, holdsAt_cons.mpr ⟨h2, holdsAt_nil _ _⟩⟩, ?_⟩
    rw [declaredLength_of_short _ _ hshort, declaredLength_of_short _ _ hshort]
  · rw [if_neg (by omega)] at hheader
    obtain rfl : b2 = c2 := Option.some.inj (h2.symm.trans (hheader 2 c2 rfl))
    exact ⟨b1, hheader, rfl⟩

/-- Settles O35: the header WRHDR stores stands where DECLEN reads it. -/
theorem wrhdrThenDeclenGivesTheLengthBack : Obligations.WrhdrThenDeclenGivesTheLengthBack := by
  intro s t h ht hr hthird
  obtain ⟨b2, h2⟩ := Option.ne_none_iff_exists'.mp hthird
  obtain ⟨hm, ⟨-, hlimit⟩, -, rfl⟩ := wrhdr_success h ht
  obtain ⟨hstored, -⟩ := Memory.storesOnly_writeBytes s.buf s.dstAddr
    (s.markerOperand :: lengthField (headerSize s.markerOperand) s.lenVal)
  obtain ⟨b1, hb, hlen⟩ :=
    holdsAt_header_declaredLength ((headerSize_cases s.markerOperand).resolve_left hm) hlimit hstored h2
  rw [exec_declen_of_holdsAt hr hb, hlen, BitVec.ofNat_toNat, BitVec.setWidth_eq]

end Sys2Proof.Machine
end

/-! PROOFS. The commands of the stream reader: the head of the stream, STRFEED, STRNEXT, STRCLOSE, STRRESET, and FRAME_AVAIL
(45_stream_reader.md R301 to R305). -/
section
namespace Sys2Proof.Machine

variable {s : State}

/-! ## The head of the stream (45_stream_reader.md R303) -/

section
variable {sb : List Byte}

theorem streamHead_of_short (h : sb.length < 3) : streamHead sb = .incomplete := by
  match sb, h with
  | [], _ | [_], _ | [_, _], _ => rfl

/-- Three bytes or more begin with a header's three bytes. -/
theorem exists_header_of_length (h : 3 ≤ sb.length) : ∃ b0 b1 b2 rest, sb = b0 :: b1 :: b2 :: rest := by
  match sb, h with
  | b0 :: b1 :: b2 :: rest, _ => exact ⟨b0, b1, b2, rest, rfl⟩

/-- The checks on a header, in order: length 0, a length below the header, a frame not yet complete. -/
theorem streamHead_of_header {b0 b1 b2 : Byte} {rest : List Byte} (h : sb = b0 :: b1 :: b2 :: rest) :
    streamHead sb =
      if declaredLength b0 b1 b2 = 0 then .badMarker
      else if declaredLength b0 b1 b2 < headerSize b0 then .badLength
      else if declaredLength b0 b1 b2 ≤ sb.length then .frame (declaredLength b0 b1 b2)
      else .incomplete := by
  subst h
  rfl

theorem streamHead_eq_frame_iff {len : Nat} :
    streamHead sb = .frame len ↔ ∃ b0 b1 b2 rest, sb = b0 :: b1 :: b2 :: rest ∧
      declaredLength b0 b1 b2 = len ∧ headerSize b0 ≤ len ∧ len ≠ 0 ∧ len ≤ sb.length := by
  constructor
  · intro h
    obtain hshort | hlong := Nat.lt_or_ge sb.length 3
    · simp [streamHead_of_short hshort] at h
    · obtain ⟨b0, b1, b2, rest, hsb⟩ := exists_header_of_length hlong
      rw [streamHead_of_header hsb] at h
      split_ifs at h with h0 hheader hcomplete
      cases h
      exact ⟨b0, b1, b2, rest, hsb, rfl, Nat.le_of_not_lt hheader, h0, hcomplete⟩
  · rintro ⟨b0, b1, b2, rest, hsb, rfl, hheader, h0, hcomplete⟩
    rw [streamHead_of_header hsb, if_neg h0, if_neg hheader.not_gt, if_pos hcomplete]

theorem streamHead_frame_bounds {len : Nat} (h : streamHead sb = .frame len) : len ≠ 0 ∧ len ≤ sb.length := by
  obtain ⟨-, -, -, -, -, -, -, hbounds⟩ := streamHead_eq_frame_iff.mp h
  exact hbounds

/-- Bytes that follow change no head that is decided: an outcome other than waiting rests on the first L bytes alone. -/
theorem streamHead_append (h : streamHead sb ≠ .incomplete) (more : List Byte) :
    streamHead (sb ++ more) = streamHead sb := by
  obtain hshort | hlong := Nat.lt_or_ge sb.length 3
  · exact absurd (streamHead_of_short hshort) h
  · obtain ⟨b0, b1, b2, rest, rfl⟩ := exists_header_of_length hlong
    rw [streamHead_of_header rfl] at h ⊢
    rw [streamHead_of_header (sb := b0 :: b1 :: b2 :: rest ++ more) rfl, List.length_append]
    split_ifs at h ⊢ with h0 hheader hmore hcomplete hcomplete
    · rfl
    · rfl
    · rfl
    · exact absurd rfl h
    · omega
    · rfl

end

/-! ## STRFEED (45_stream_reader.md R302) -/

/-- STRFEED with its checks in order, its read and its writes. -/
theorem exec_strfeed (s : State) :
    exec .strfeed s = s.finish (
      Eval.check (s.sstate = .opened) .streamState <|
      Eval.check (s.inBuf s.srcAddr s.lenVal) .bufRange <|
      Eval.check (s.sb.length + s.lenVal ≤ s.params.streamCap) .streamOverflow <|
      (s.memRead s.srcAddr s.lenVal).bind fun bs =>
      .ok (({ s with sb := s.sb ++ bs } : State).withResults (s.sb.length + s.lenVal) s.lenVal)) := rfl

theorem exec_strfeed_of_not_opened (h : s.sstate ≠ .opened) : exec .strfeed s = .next (failWith s .streamState) := by
  rw [exec_strfeed, Eval.check_neg h]
  rfl

/-- STRFEED past its checks appends the bytes that stand at SRC. -/
theorem exec_strfeed_of_holdsAt {bs : List Byte} (hopen : s.sstate = .opened) (hr : s.inBuf s.srcAddr s.lenVal)
    (hcap : s.sb.length + s.lenVal ≤ s.params.streamCap) (hl : bs.length = s.lenVal)
    (hb : holdsAt s.buf s.srcAddr bs) :
    exec .strfeed s =
      .next { succeed s (BitVec.ofNat 32 (s.sb.length + s.lenVal)) s.len with sb := s.sb ++ bs } := by
  rw [exec_strfeed, Eval.check_pos hopen, Eval.check_pos hr, Eval.check_pos hcap, State.memRead_of_holdsAt hl hb,
    Eval.bind_ok, State.finish_ok, State.completeOk_withResults, BitVec.ofNat_toNat, BitVec.setWidth_eq]
  rfl

/-- Settles O57: the checks in order, then the read and the append. -/
theorem strfeedAppendsBytes : Obligations.StrfeedAppendsBytes := by
  refine ⟨rfl, fun s => ⟨exec_strfeed_of_not_opened, fun hopen hout => ?_, fun hopen hr hover => ?_,
    fun hopen hr hcap hu => ?_, fun bs => exec_strfeed_of_holdsAt⟩⟩
  · rw [exec_strfeed, Eval.check_pos hopen, Eval.check_neg hout.not_ge]
    rfl
  · rw [exec_strfeed, Eval.check_pos hopen, Eval.check_pos hr, Eval.check_neg hover.not_ge]
    rfl
  · rw [exec_strfeed, Eval.check_pos hopen, Eval.check_pos hr, Eval.check_pos hcap, State.memRead_of_unwritten hu,
      Eval.bind_fault, State.finish_fault]

/-! ## STRNEXT, for each head of the stream (45_stream_reader.md R303) -/

theorem exec_strnext_of_terminated (h : s.sstate = .terminated) : exec .strnext s = .next (failWith s .streamState) := by
  rw [exec, execStrnext, Eval.check_neg (not_not.mpr h)]
  rfl

/-- The state once STRNEXT has delivered the first len bytes of SB. -/
def State.afterFrame (s : State) (len : Nat) : State :=
  { succeed s (BitVec.ofNat 32 len) (BitVec.ofNat 32 (s.sb.length - len)) with
    buf := s.buf.writeBytes s.dst.toNat (s.sb.take len), sb := s.sb.drop len }

theorem State.afterFrame_result0_toNat {len : Nat} (hh : streamHead s.sb = .frame len) :
    (s.afterFrame len).result0.toNat = len :=
  toNat_ofNat_of_frameLength (streamHead_frame_lt hh)

/-- A delivered frame has a RESULT0 other than 0, which tells it from no frame. -/
theorem State.afterFrame_result0_ne_zero {len : Nat} (hh : streamHead s.sb = .frame len) :
    (s.afterFrame len).result0 ≠ 0#32 := by
  obtain ⟨h0, -⟩ := streamHead_frame_bounds hh
  intro hz
  exact h0 ((State.afterFrame_result0_toNat hh).symm.trans (congrArg BitVec.toNat hz))

section
variable (hst : s.sstate ≠ .terminated)
include hst

theorem exec_strnext_of_badMarker (hh : streamHead s.sb = .badMarker) :
    exec .strnext s = .next { failWith s .invalidHeaderMarker with sstate := .terminated } := by
  rw [exec, execStrnext, Eval.check_pos hst, hh]
  rfl

theorem exec_strnext_of_badLength (hh : streamHead s.sb = .badLength) :
    exec .strnext s = .next { failWith s .invalidLength with sstate := .terminated } := by
  rw [exec, execStrnext, Eval.check_pos hst, hh]
  rfl

theorem exec_strnext_of_outOfRange {len : Nat} (hh : streamHead s.sb = .frame len)
    (hout : s.params.bufSize < s.dst.toNat + len) : exec .strnext s = .next (failWith s .bufRange) := by
  rw [exec, execStrnext, Eval.check_pos hst, hh]
  dsimp only
  rw [Eval.check_neg hout.not_ge]
  rfl

theorem exec_strnext_of_frame {len : Nat} (hh : streamHead s.sb = .frame len)
    (hr : s.dst.toNat + len ≤ s.params.bufSize) : exec .strnext s = .next (s.afterFrame len) := by
  rw [exec, execStrnext, Eval.check_pos hst, hh]
  dsimp only
  rw [Eval.check_pos hr]
  rfl

/-- With no complete frame STRNEXT keeps SB, or drops it if the stream is CLOSED. -/
theorem exec_strnext_of_incomplete {rest : List Byte} (hh : streamHead s.sb = .incomplete)
    (hrest : (if s.sstate = .closed then [] else s.sb) = rest) :
    exec .strnext s = .next { succeed s 0#32 (BitVec.ofNat 32 rest.length) with sb := rest } := by
  subst hrest
  rw [exec, execStrnext, Eval.check_pos hst, hh]
  rfl

end

/-- Settles O58: the state decides first, then the head of the stream, then the destination's range. -/
theorem strnextDeliversOneFrame : Obligations.StrnextDeliversOneFrame := by
  refine ⟨rfl, fun s => ⟨exec_strnext_of_terminated, fun b0 b1 b2 rest hst hsb => ?_, fun hwait => ?_⟩⟩
  · have hhead := streamHead_of_header hsb
    refine ⟨fun h0 => ?_, fun h0 hbelow => ?_, fun h0 hheader hout hcomplete => ?_,
      fun frame tail h0 hheader hr hcut hlen => ?_⟩
    · rw [if_pos h0] at hhead
      exact exec_strnext_of_badMarker hst hhead
    · rw [if_neg h0, if_pos hbelow] at hhead
      exact exec_strnext_of_badLength hst hhead
    · rw [if_neg h0, if_neg hheader.not_gt, if_pos hcomplete] at hhead
      exact exec_strnext_of_outOfRange hst hhead hout
    · have hcomplete : declaredLength b0 b1 b2 ≤ s.sb.length := by
        rw [hcut, List.length_append]
        omega
      rw [if_neg h0, if_neg hheader.not_gt, if_pos hcomplete, ← hlen] at hhead
      have hdelivered : s.afterFrame frame.length =
          { succeed s (BitVec.ofNat 32 frame.length) (BitVec.ofNat 32 tail.length) with
            buf := s.buf.writeBytes s.dst.toNat frame, sb := tail } := by
        simp [State.afterFrame, hcut]
      exact ⟨_, hdelivered ▸ exec_strnext_of_frame hst hhead (hlen ▸ hr), Memory.storesOnly_writeBytes _ _ _⟩
  · have hhead : streamHead s.sb = .incomplete := by
      obtain hshort | ⟨b0, b1, b2, rest, hsb, hheader, hpart⟩ := hwait
      · exact streamHead_of_short hshort
      · rw [streamHead_of_header hsb, if_neg (by omega), if_neg hheader.not_gt, if_neg hpart.not_ge]
    exact ⟨fun hst => exec_strnext_of_incomplete (by simp [hst]) hhead (by simp [hst]),
      fun hst => exec_strnext_of_incomplete (rest := []) (by simp [hst]) hhead (by simp [hst])⟩

/-! ## FRAME_AVAIL (45_stream_reader.md R301) -/

theorem State.frameAvail_iff_header :
    s.frameAvail = true ↔ s.sstate ≠ .terminated ∧ ∃ b0 b1 b2 rest, s.sb = b0 :: b1 :: b2 :: rest ∧
      headerSize b0 ≤ declaredLength b0 b1 b2 ∧ declaredLength b0 b1 b2 ≠ 0 ∧
      declaredLength b0 b1 b2 ≤ s.sb.length := by
  unfold State.frameAvail
  split
  · next hst => simp [hst]
  · next b0 b1 b2 rest hsb hst =>
    have hst : s.sstate ≠ .terminated := hst
    simp [hsb, hst, and_assoc]
  · next hst hheader =>
    simp only [Bool.false_eq_true, false_iff, not_and]
    rintro - ⟨b0, b1, b2, rest, hsb, -⟩
    exact hheader b0 b1 b2 rest hsb

/-- FRAME_AVAIL says that STRNEXT may run and that a complete frame is at the head of the stream. -/
theorem State.frameAvail_iff_streamHead :
    s.frameAvail = true ↔ s.sstate ≠ .terminated ∧ ∃ len, streamHead s.sb = .frame len := by
  rw [State.frameAvail_iff_header, and_congr_right_iff]
  refine fun _ => ⟨?_, ?_⟩
  · rintro ⟨b0, b1, b2, rest, hsb, hframe⟩
    exact ⟨_, streamHead_eq_frame_iff.mpr ⟨b0, b1, b2, rest, hsb, rfl, hframe⟩⟩
  · rintro ⟨len, hlen⟩
    obtain ⟨b0, b1, b2, rest, hsb, rfl, hframe⟩ := streamHead_eq_frame_iff.mp hlen
    exact ⟨b0, b1, b2, rest, hsb, hframe⟩

theorem strnext_delivers_iff (hdst : s.dst.toNat + 65535 ≤ s.params.bufSize) :
    (∃ t, exec .strnext s = .next t ∧ t.err = false ∧ t.result0 ≠ 0#32) ↔
      s.sstate ≠ .terminated ∧ ∃ len, streamHead s.sb = .frame len := by
  constructor
  · rintro ⟨t, h, ht, hresult⟩
    obtain ⟨hst, ⟨len, hlen, -⟩ | ⟨rest, -, -, rfl⟩⟩ := strnext_success h ht
    · exact ⟨hst, len, hlen⟩
    · exact absurd rfl hresult
  · rintro ⟨hst, len, hlen⟩
    have hlt := streamHead_frame_lt hlen
    exact ⟨s.afterFrame len, exec_strnext_of_frame hst hlen (by omega), rfl, State.afterFrame_result0_ne_zero hlen⟩

/-- Settles O56: FRAME_AVAIL is the complete frame at the head that STRNEXT delivers when it may run. -/
theorem frameAvailShowsWhetherStrnextDelivers : Obligations.FrameAvailShowsWhetherStrnextDelivers := by
  refine ⟨fun s => s.frameAvail_iff_header, fun s => ?_, fun s hdst => ?_⟩
  · obtain ⟨-, -, -, -, -, -, -, -, havail, -⟩ := statusFieldLayout s
    exact havail
  · rw [strnext_delivers_iff hdst, State.frameAvail_iff_streamHead]

/-! ## STRCLOSE and STRRESET (45_stream_reader.md R304, R305) -/

/-- Settles O59: both always succeed, and STRCLOSE tests SSTATE. -/
theorem strcloseAndStrreset : Obligations.StrcloseAndStrreset := by
  refine ⟨rfl, rfl, fun s => ⟨fun hopen => ?_, fun hother => ?_, rfl⟩⟩
  · rw [exec_strclose, if_pos hopen]
    rfl
  · rw [exec_strclose, if_neg hother]
    rfl

end Sys2Proof.Machine
end

/-! PROOFS. The transitions of SSTATE, for every command and every host event (45_stream_reader.md R300). -/
section
namespace Sys2Proof.Machine

variable {s t : State}

/-! ## Commands -/

theorem State.payloadByte_sstate {k : Nat} {u : State} (h : s.payloadByte k = .ok u) : u.sstate = s.sstate := by
  obtain ⟨p, -, -, -, b, -, rfl⟩ := State.payloadByte_eq_ok.mp h
  rfl

theorem State.copyFrame_sstate {len : Nat} {u : State} (h : s.copyFrame len = .ok u) : u.sstate = s.sstate := by
  obtain ⟨-, f, -, rfl⟩ := State.copyFrame_eq_ok.mp h
  rfl

theorem State.xorPass_sstate {pass : Nat → List Byte → List Byte} {u : State} (h : s.xorPass pass = .ok u) :
    u.sstate = s.sstate := by
  obtain ⟨p, -, f, -, rfl⟩ := State.xorPass_eq_ok.mp h
  rfl

/-- A success writes SSTATE in STRCLOSE and STRRESET only. -/
theorem exec_success_sstate {i : Instr} (hclose : i ≠ .strclose) (hreset : i ≠ .strreset) (h : exec i s = .next t)
    (ht : t.err = false) : t.sstate = s.sstate := by
  cases i with
  | nop =>
    cases h.symm.trans (exec_nop s)
    rfl
  | hdrsize =>
    obtain ⟨-, m, -, rfl⟩ := hdrsize_success h ht
    rfl
  | declen =>
    obtain ⟨-, b0, b1, b2, -, -, -, rfl⟩ := declen_success h ht
    rfl
  | pkttype =>
    obtain ⟨u, hu, rfl⟩ := pkttype_success h ht
    exact State.payloadByte_sstate (u := u) hu
  | pktsub =>
    obtain ⟨u, hu, rfl⟩ := pktsub_success h ht
    exact State.payloadByte_sstate (u := u) hu
  | wrhdr =>
    obtain ⟨-, -, -, rfl⟩ := wrhdr_success h ht
    rfl
  | encsize => obtain ⟨p, -, ⟨-, rfl⟩ | ⟨-, -, rfl⟩⟩ := encsize_success h ht <;> rfl
  | decsize => obtain ⟨p, -, ⟨-, rfl⟩ | ⟨-, -, rfl⟩⟩ := decsize_success h ht <;> rfl
  | shift => obtain ⟨-, -, -, src, dst, -, -, -, -, rfl⟩ | ⟨-, rfl⟩ := shift_success h ht <;> rfl
  | smencb =>
    obtain ⟨-, -, -, -, b, -, -, rfl⟩ := smencb_success h ht
    rfl
  | smdecb =>
    obtain ⟨-, -, -, eb, p, -, -, -, -, rfl⟩ := smdecb_success h ht
    rfl
  | smencf =>
    obtain ⟨p, -, ⟨-, u, hu, rfl⟩ | ⟨-, -, -, -, payload, -, -, rfl⟩⟩ := smencf_success h ht
    · exact State.copyFrame_sstate (u := u) hu
    · rfl
  | smdecf =>
    obtain ⟨p, -, ⟨-, u, hu, rfl⟩ | ⟨-, -, -, c, warn, -, -, -, rfl⟩⟩ := smdecf_success h ht
    · exact State.copyFrame_sstate (u := u) hu
    · rfl
  | xorenc =>
    obtain ⟨u, hu, rfl⟩ := xorenc_success h ht
    exact State.xorPass_sstate (u := u) hu
  | xordec =>
    obtain ⟨u, hu, rfl⟩ := xordec_success h ht
    exact State.xorPass_sstate (u := u) hu
  | ctrinc sel =>
    cases h.symm.trans (exec_ctrinc sel s)
    simp
  | ctrrst sel =>
    cases h.symm.trans (exec_ctrrst sel s)
    simp
  | strfeed =>
    obtain ⟨-, -, -, bs, -, -, rfl⟩ := strfeed_success h ht
    rfl
  | strnext => obtain ⟨-, ⟨len, -, -, rfl⟩ | ⟨rest, -, -, rfl⟩⟩ := strnext_success h ht <;> rfl
  | strclose => exact absurd rfl hclose
  | strreset => exact absurd rfl hreset

/-- A failure writes SSTATE exactly on the two framing errors of STRNEXT, and ends the stream there. -/
theorem exec_failure_sstate {i : Instr} (h : exec i s = .next t) (ht : t.err = true) :
    (framingError i t.errCode ∧ t.sstate = .terminated) ∨ (¬ framingError i t.errCode ∧ t.sstate = s.sstate) := by
  obtain ⟨e, w, hw, rfl⟩ := exec_errors h ht
  cases w with
  | nothing => exact .inr ⟨hw, rfl⟩
  | terminate => exact .inl ⟨hw, rfl⟩
  | warn =>
    refine .inr ⟨fun ⟨hnext, _⟩ => ?_, rfl⟩
    obtain ⟨hdecode, -⟩ := hw
    simp [hnext] at hdecode

/-- STRNEXT raises a framing error only where it runs at all. -/
theorem strnext_framingError_sstate (h : exec .strnext s = .next t) (hf : framingError .strnext t.errCode) :
    s.sstate ≠ .terminated := by
  intro hst
  cases h.symm.trans (exec_strnext_of_terminated hst)
  simp [framingError] at hf

/-- What a command leaves in SSTATE: the value it had, but for STRCLOSE in OPEN, the framing errors and STRRESET. -/
theorem exec_sstate {i : Instr} (h : exec i s = .next t) :
    t.sstate = s.sstate ∨ (i = .strclose ∧ s.sstate = .opened) ∨ (t.err = true ∧ framingError i t.errCode) ∨
      i = .strreset := by
  cases ht : t.err with
  | true =>
    obtain ⟨hf, -⟩ | ⟨-, hkept⟩ := exec_failure_sstate h ht
    · exact .inr (.inr (.inl ⟨rfl, hf⟩))
    · exact .inl hkept
  | false =>
    by_cases hreset : i = .strreset
    · exact .inr (.inr (.inr hreset))
    by_cases hclose : i = .strclose
    · subst hclose
      by_cases hopen : s.sstate = .opened
      · exact .inr (.inl ⟨rfl, hopen⟩)
      · cases h.symm.trans (exec_strclose s)
        exact .inl (if_neg hopen)
    · exact .inl (exec_success_sstate hclose hreset h ht)

/-! ## Host events -/

/-- A CMD write, accepted or dropped, only hands a command over. -/
theorem State.issue_sstate (s : State) (w : Word) : (s.issue w).sstate = s.sstate := by
  unfold State.issue
  split <;> rfl

/-- No register is SSTATE. -/
theorem State.writeReg_sstate (s : State) (r : Reg) (v : Word) : (s.writeReg r v).sstate = s.sstate := by
  cases r with
  | cmd => exact s.issue_sstate v
  | _ => rfl

theorem State.hostWait_sstate (s : State) : s.hostWait.sstate = s.sstate := by
  obtain ⟨v, hv, -⟩ := s.readStatus_eq
  unfold State.hostWait
  split <;> rw [hv]

theorem State.hostEvent_sstate {e : HostEvent} (h : s.hostEvent e = .next t) (he : e ≠ .reset) :
    t.sstate = s.sstate := by
  cases e with
  | read w addr =>
    obtain ⟨d, hd, -⟩ := readsHaveNoSideEffect s t w _ (State.onBus_eq_next.mp h).2
    rw [hd]
  | write addr d =>
    rcases State.hostWrite_eq_next (State.onBus_eq_next (f := (s.hostWrite · d)).mp h).2 with
      rfl | ⟨r, v, rfl⟩ | ⟨a, -, rfl⟩
    · rfl
    · exact s.writeReg_sstate r v
    · rfl
  | otherWidth addr n => exact absurd (State.onBus_eq_next (f := s.hostOtherWidth n).mp h).2 State.hostOtherWidth_ne_next
  | wait =>
    cases h
    exact s.hostWait_sstate
  | reset => exact absurd rfl he

/-! ## The statement -/

/-- Settles O17: a command changes SSTATE as `exec_sstate` says, and of the host events only the reset does. -/
theorem streamStateTransitions : Obligations.StreamStateTransitions := by
  refine ⟨fun i s t h => ⟨?_, ?_, ?_, ?_⟩, fun e s t h => ⟨?_, State.hostEvent_sstate h⟩, fun p => rfl⟩
  · rintro rfl hopen
    cases h.symm.trans (exec_strclose s)
    exact if_pos hopen
  · rintro rfl ht hcode
    have hf : framingError .strnext t.errCode := ⟨rfl, hcode⟩
    obtain ⟨-, hterminated⟩ | ⟨hnot, -⟩ := exec_failure_sstate h ht
    · refine ⟨?_, hterminated⟩
      have hst := strnext_framingError_sstate h hf
      cases hs : s.sstate with
      | opened => exact .inl rfl
      | closed => exact .inr rfl
      | terminated => exact absurd hs hst
    · exact absurd hf hnot
  · rintro rfl
    cases h.symm.trans (exec_strreset s)
    rfl
  · obtain hkept | hclose | ⟨ht, rfl, hcode⟩ | hreset := exec_sstate h
    · exact .inl hkept
    · exact .inr (.inl hclose)
    · exact .inr (.inr (.inl ⟨rfl, ht, hcode⟩))
    · exact .inr (.inr (.inr hreset))
  · rintro rfl
    cases h
    rfl

end Sys2Proof.Machine
end

/-! PROOFS. Chunking invariance (45_stream_reader.md R306): the frames a byte string holds do not depend on where it is cut,
and feeding and pulling deliver exactly those. -/
section
namespace Sys2Proof.Machine

variable {s t : State}

/-! ## The frames of a byte string -/

/-- SB holds the complete frames fs, in order, and then rest, at whose head no frame is complete. -/
inductive Delivers : List Byte → List (List Byte) → List Byte → Prop where
  | stop {sb : List Byte} (h : ∀ len, streamHead sb ≠ .frame len) : Delivers sb [] sb
  | frame {sb rest : List Byte} {fs : List (List Byte)} {len : Nat} (h : streamHead sb = .frame len)
      (hr : Delivers (sb.drop len) fs rest) : Delivers sb (sb.take len :: fs) rest

namespace Delivers

variable {sb rest rest' : List Byte} {fs fs' : List (List Byte)}

theorem unique (h : Delivers sb fs rest) (h' : Delivers sb fs' rest') : fs = fs' ∧ rest = rest' := by
  induction h generalizing fs' rest' with
  | stop hstop =>
    cases h' with
    | stop => exact ⟨rfl, rfl⟩
    | frame hframe => exact absurd hframe (hstop _)
  | frame hframe _ ih =>
    cases h' with
    | stop hstop => exact absurd hframe (hstop _)
    | frame hframe' hrest' =>
      cases hframe.symm.trans hframe'
      obtain ⟨rfl, rfl⟩ := ih hrest'
      exact ⟨rfl, rfl⟩

/-- Frames and rest are the string itself: no byte is lost, repeated or moved. -/
theorem flatten_append_rest (h : Delivers sb fs rest) : fs.flatten ++ rest = sb := by
  induction h with
  | stop => rfl
  | frame _ _ ih => rw [List.flatten_cons, List.append_assoc, ih, List.take_append_drop]

theorem length_rest_le (h : Delivers sb fs rest) : rest.length ≤ sb.length := by
  rw [← h.flatten_append_rest, List.length_append]
  exact Nat.le_add_left _ _

theorem rest_not_frame (h : Delivers sb fs rest) (len : Nat) : streamHead rest ≠ .frame len := by
  induction h with
  | stop hstop => exact hstop len
  | frame _ _ ih => exact ih

/-- The frames of a longer string are those of the string, then those of its rest and the bytes that follow. -/
theorem append {more : List Byte} (h : Delivers sb fs rest) (h' : Delivers (rest ++ more) fs' rest') :
    Delivers (sb ++ more) (fs ++ fs') rest' := by
  induction h with
  | stop => exact h'
  | @frame sb rest fs len hframe _ ih =>
    obtain ⟨-, hlen⟩ := streamHead_frame_bounds hframe
    have hmore : streamHead (sb ++ more) = .frame len := by
      rw [streamHead_append (by simp [hframe]), hframe]
    have hdrop := ih h'
    rw [← List.drop_append_of_le_length hlen] at hdrop
    have hwhole := Delivers.frame hmore hdrop
    rwa [List.take_append_of_le_length hlen] at hwhole

end Delivers

/-- SSTATE once STRNEXT has met this head in OPEN, with the destination in range (45_stream_reader.md R300). -/
def Head.endState : Head → StreamState
  | .badMarker => .terminated
  | .badLength => .terminated
  | .incomplete => .opened
  | .frame _ => .opened

theorem Head.endState_of_error {head : Head} (hframe : ∀ len, head ≠ .frame len) (hwait : head ≠ .incomplete) :
    head.endState = .terminated := by
  cases head with
  | badMarker | badLength => rfl
  | incomplete => exact absurd rfl hwait
  | frame len => exact absurd rfl (hframe len)

/-! ## What feeding and pulling keep -/

/-- The parameters and the two addresses that feeding and pulling use. -/
def samePlace (s t : State) : Prop := t.params = s.params ∧ t.src = s.src ∧ t.dst = s.dst

theorem samePlace.refl (s : State) : samePlace s s := ⟨rfl, rfl, rfl⟩

theorem exec_samePlace {i : Instr} (h : exec i s = .next t) : samePlace s t := by
  obtain ⟨⟨hparams, -, -, ⟨hsrc, hdst, -⟩, -⟩, -⟩ := exec_frame h
  exact ⟨hparams, hsrc, hdst⟩

/-- There is room for n more bytes in the stream and at SRC, and for any frame at DST. -/
def State.roomFor (s : State) (n : Nat) : Prop :=
  n < 2 ^ 32 ∧ s.sb.length + n ≤ s.params.streamCap ∧ s.src.toNat + n ≤ s.params.bufSize ∧
    s.dst.toNat + 65535 ≤ s.params.bufSize

theorem samePlace.roomFor {m n : Nat} (h : samePlace s t) (hm : m ≤ n) (hsb : t.sb.length + m ≤ s.sb.length + n)
    (hs : s.roomFor n) : t.roomFor m := by
  obtain ⟨hparams, hsrc, hdst⟩ := h
  obtain ⟨hlt, hcap, hin, hout⟩ := hs
  rw [State.roomFor, hparams, hsrc, hdst]
  exact ⟨by omega, by omega, by omega, hout⟩

/-! ## Pulling every frame -/

/-- What pulling leaves of an OPEN stream: all its frames are delivered, SB holds the rest, and SSTATE is as the head of
the rest decides. -/
structure Pulled (s : State) (r : List (List Byte) × State) : Prop where
  delivers : Delivers s.sb r.1 r.2.sb
  endState : r.2.sstate = (streamHead r.2.sb).endState
  place : samePlace s r.2

/-- STRNEXT that fails or finds no frame ends the pulling. -/
theorem pullFrames_of_end {n : Nat} (h : exec .strnext s = .next t) (hend : t.err = true ∨ t.result0 = 0#32) :
    pullFrames (n + 1) s = ([], t) := by
  simp only [pullFrames, h, if_pos hend]

/-- A frame that STRNEXT delivers is read back at DST, and the pulling goes on. -/
theorem pullFrames_of_delivery {n : Nat} (h : exec .strnext s = .next t) (hgo : ¬ (t.err = true ∨ t.result0 = 0#32)) :
    pullFrames (n + 1) s =
      ((t.buf.readBytes s.dst.toNat t.result0.toNat).getD [] :: (pullFrames n t).1, (pullFrames n t).2) := by
  simp only [pullFrames, h, if_neg hgo]

/-- What is read back is the frame as it stood in SB. -/
theorem pullFrames_of_frame {n len : Nat} (hst : s.sstate ≠ .terminated) (hh : streamHead s.sb = .frame len)
    (hdst : s.dst.toNat + 65535 ≤ s.params.bufSize) :
    pullFrames (n + 1) s =
      (s.sb.take len :: (pullFrames n (s.afterFrame len)).1, (pullFrames n (s.afterFrame len)).2) := by
  have hlt := streamHead_frame_lt hh
  obtain ⟨-, hlen⟩ := streamHead_frame_bounds hh
  have hstored : (s.afterFrame len).buf.readBytes s.dst.toNat len = some (s.sb.take len) :=
    (Memory.readBytes_eq_some_iff _ _ _ _).mpr
      ⟨List.length_take_of_le hlen, (Memory.storesOnly_writeBytes s.buf s.dst.toNat (s.sb.take len)).1⟩
  have hgo : ¬ ((s.afterFrame len).err = true ∨ (s.afterFrame len).result0 = 0#32) :=
    not_or.mpr ⟨nofun, State.afterFrame_result0_ne_zero hh⟩
  rw [pullFrames_of_delivery (exec_strnext_of_frame hst hh (by omega)) hgo, State.afterFrame_result0_toNat hh, hstored,
    Option.getD_some]

theorem pulled_of_end {n : Nat} (h : exec .strnext s = .next t) (hend : t.err = true ∨ t.result0 = 0#32)
    (hstop : ∀ len, streamHead s.sb ≠ .frame len) (hsb : t.sb = s.sb)
    (hstate : t.sstate = (streamHead s.sb).endState) : Pulled s (pullFrames (n + 1) s) := by
  rw [← hsb] at hstate
  rw [pullFrames_of_end h hend]
  exact ⟨hsb.symm ▸ .stop hstop, hstate, exec_samePlace h⟩

/-- Each frame shortens SB, so a bound on the pulls above its length is never met. -/
theorem pulled_of_opened {n : Nat} (hst : s.sstate = .opened) (hdst : s.dst.toNat + 65535 ≤ s.params.bufSize)
    (hn : s.sb.length < n) : Pulled s (pullFrames n s) := by
  induction n generalizing s with
  | zero => omega
  | succ n ih =>
    have hrun : s.sstate ≠ .terminated := by simp [hst]
    cases hh : streamHead s.sb with
    | frame len =>
      obtain ⟨hpos, hlen⟩ := streamHead_frame_bounds hh
      have hshorter : (s.afterFrame len).sb.length < n := by
        simp only [State.afterFrame, List.length_drop]
        omega
      obtain ⟨hrest, hend, hplace⟩ := ih (s := s.afterFrame len) hst hdst hshorter
      rw [pullFrames_of_frame hrun hh hdst]
      exact ⟨.frame hh hrest, hend, hplace⟩
    | incomplete =>
      exact pulled_of_end (exec_strnext_of_incomplete hrun hh (if_neg (by simp [hst]))) (.inr rfl) (by simp [hh]) rfl
        (by simp [hh, hst, Head.endState])
    | badMarker =>
      exact pulled_of_end (exec_strnext_of_badMarker hrun hh) (.inl rfl) (by simp [hh]) rfl (by simp [hh, Head.endState])
    | badLength =>
      exact pulled_of_end (exec_strnext_of_badLength hrun hh) (.inl rfl) (by simp [hh]) rfl (by simp [hh, Head.endState])

theorem pullFrames_of_terminated (n : Nat) (hst : s.sstate = .terminated) :
    (pullFrames n s).1 = [] ∧ (pullFrames n s).2.sstate = .terminated := by
  cases n with
  | zero => exact ⟨rfl, hst⟩
  | succ n =>
    rw [pullFrames_of_end (exec_strnext_of_terminated hst) (.inl rfl)]
    exact ⟨rfl, hst⟩

/-! ## Feeding one chunk, then the others -/

/-- The state in which a chunk's STRFEED runs: the chunk stands at SRC and LEN counts it. -/
def State.withChunk (s : State) (c : List Byte) : State :=
  { s with buf := s.buf.writeBytes s.src.toNat c, len := BitVec.ofNat 32 c.length }

theorem feedChunk_of_next {c : List Byte} (h : exec .strfeed (s.withChunk c) = .next t) : feedChunk s c = t := by
  rw [State.withChunk] at h
  simp only [feedChunk, h]

/-- A chunk there is room for is appended to an OPEN stream, which stays OPEN. -/
theorem feedChunk_of_opened {c : List Byte} (hst : s.sstate = .opened) (hroom : s.roomFor c.length) :
    (feedChunk s c).sb = s.sb ++ c ∧ (feedChunk s c).sstate = .opened ∧ samePlace s (feedChunk s c) := by
  obtain ⟨hlt, hcap, hsrc, -⟩ := hroom
  have hlen : (s.withChunk c).lenVal = c.length := by
    simp only [State.withChunk, State.lenVal, BitVec.toNat_ofNat, Nat.mod_eq_of_lt hlt]
  have h := exec_strfeed_of_holdsAt (s := s.withChunk c) (bs := c) hst (by rw [hlen]; exact hsrc)
    (by rw [hlen]; exact hcap) hlen.symm (Memory.storesOnly_writeBytes s.buf s.src.toNat c).1
  rw [feedChunk_of_next h]
  exact ⟨rfl, hst, rfl, rfl, rfl⟩

theorem feedChunk_of_not_opened (c : List Byte) (hst : s.sstate ≠ .opened) : (feedChunk s c).sstate = s.sstate := by
  rw [feedChunk_of_next (exec_strfeed_of_not_opened (s := s.withChunk c) hst)]
  rfl

theorem feedChunks_of_terminated (cs : List (List Byte)) (hst : s.sstate = .terminated) :
    (feedChunks cs s).1 = [] ∧ (feedChunks cs s).2.sstate = .terminated := by
  induction cs generalizing s with
  | nil => exact ⟨rfl, hst⟩
  | cons c cs ih =>
    have hfed := (feedChunk_of_not_opened c (by simp [hst])).trans hst
    obtain ⟨hnone, hstay⟩ := pullFrames_of_terminated (s.sb.length + c.length + 1) hfed
    obtain ⟨hnone', hstay'⟩ := ih hstay
    rw [feedChunks, hnone, hnone']
    exact ⟨rfl, hstay'⟩

/-- Whatever the chunks, what is delivered is what SB and the chunks hold together, up to the first framing error. -/
theorem feedChunks_delivers (cs : List (List Byte)) (hst : s.sstate = .opened) (hh : streamHead s.sb = .incomplete)
    (hroom : s.roomFor cs.flatten.length) :
    ∃ rest, Delivers (s.sb ++ cs.flatten) (feedChunks cs s).1 rest ∧
      (feedChunks cs s).2.sstate = (streamHead rest).endState ∧
      ((feedChunks cs s).2.sstate = .opened → (feedChunks cs s).2.sb = rest) := by
  induction cs generalizing s with
  | nil =>
    refine ⟨s.sb, ?_, by simp [feedChunks, hst, hh, Head.endState], fun _ => rfl⟩
    rw [List.flatten_nil, List.append_nil]
    exact .stop (by simp [hh])
  | cons c cs ih =>
    rw [List.flatten_cons, List.length_append] at hroom
    have hchunkRoom := (samePlace.refl s).roomFor (m := c.length) (by omega) (by omega) hroom
    obtain ⟨hfed, hopen, hplace⟩ := feedChunk_of_opened hst hchunkRoom
    have hlength : (feedChunk s c).sb.length = s.sb.length + c.length := by rw [hfed, List.length_append]
    have hfedRoom := hplace.roomFor (m := cs.flatten.length) (by omega) (by omega) hroom
    have ⟨_, _, _, hdst⟩ := hfedRoom
    have hpulled := pulled_of_opened (n := s.sb.length + c.length + 1) hopen hdst (by omega)
    rw [feedChunks, List.flatten_cons, ← List.append_assoc, ← hfed]
    generalize pullFrames (s.sb.length + c.length + 1) (feedChunk s c) = r at hpulled
    obtain ⟨hdelivers, hend, hplace'⟩ := hpulled
    have hshorter := hdelivers.length_rest_le
    by_cases hwait : streamHead r.2.sb = .incomplete
    · obtain ⟨rest, hrest, hstate⟩ := ih (by rw [hend, hwait]; rfl) hwait
        (hplace'.roomFor le_rfl (Nat.add_le_add_right hshorter _) hfedRoom)
      exact ⟨rest, hdelivers.append hrest, hstate⟩
    · have hterminated : r.2.sstate = .terminated := by
        rw [hend, Head.endState_of_error hdelivers.rest_not_frame hwait]
      obtain ⟨hnone, hstay⟩ := feedChunks_of_terminated cs hterminated
      have hhead := streamHead_append hwait cs.flatten
      refine ⟨r.2.sb ++ cs.flatten, ?_, ?_, fun hopened => ?_⟩
      · rw [hnone]
        exact hdelivers.append (.stop (by rw [hhead]; exact hdelivers.rest_not_frame))
      · rw [hhead, ← hend, hterminated]
        exact hstay
      · exact absurd (hstay.symm.trans hopened) nofun

/-- Settles O60: both ways of feeding deliver the frames of one byte string, and those are unique. -/
theorem chunkingDoesNotChangeTheFrames : Obligations.ChunkingDoesNotChangeTheFrames := by
  intro s cs hst hempty hlt hcap hsrc hdst
  have hh : streamHead s.sb = .incomplete := by rw [hempty]; rfl
  have hroom : s.roomFor cs.flatten.length := ⟨hlt, by simpa [hempty] using hcap, hsrc, hdst⟩
  have hwhole : [cs.flatten].flatten = cs.flatten := List.append_nil _
  obtain ⟨rest, hd, hs, hsb⟩ := feedChunks_delivers cs hst hh hroom
  obtain ⟨rest', hd', hs', hsb'⟩ := feedChunks_delivers [cs.flatten] hst hh (by rwa [hwhole])
  rw [hwhole] at hd'
  obtain ⟨hframes, rfl⟩ := hd.unique hd'
  exact ⟨hframes, hs.trans hs'.symm, fun hopen => (hsb hopen).trans (hsb' (hs'.trans (hs.symm.trans hopen))).symm⟩

end Sys2Proof.Machine
end


/-! PROOFS. NOP: its only word, and its effect (46_system.md R330). -/
section
namespace Sys2Proof

theorem Instr.op_eq_zero_iff {i : Instr} : i.op = 0x00#8 ↔ i = .nop := by
  constructor
  · intro h
    cases i with
    | nop => rfl
    | _ => exact absurd h (by simp [Instr.op])
  · rintro rfl
    rfl

/-- With OP = 0 only the word of NOP, with no bit of [31:8] set, is a command (30_encoding.md R124). -/
theorem extractLsb'_eq_zero_of_decode_of_op_zero {w : Word} {i : Instr} (h : decode w = .command i)
    (hop : w.extractLsb' 0 8 = 0#8) : w.extractLsb' 8 24 = 0#24 := by
  have hw : w = encode i := (decodeAnswersExactlyTheEncodedCommand w i).mp h
  obtain ⟨-, -, hopField⟩ := commandWord_eq_iff.mp hw
  obtain rfl : i = .nop := Instr.op_eq_zero_iff.mp (hopField.symm.trans hop)
  rw [hw]
  rfl

/-- Settles O28: by O1 a word with OP = 0 and another bit set is no command, so the engine takes the error of R124. -/
theorem nopChangesOnlyStatus : Obligations.NopChangesOnlyStatus := by
  refine ⟨commandWordsOfTheOpcodeMap.1, fun s hop hhigh => ?_, Machine.exec_nop⟩
  have hnoCommand : ∀ i, decode s.pending ≠ .command i := fun i hi =>
    hhigh (extractLsb'_eq_zero_of_decode_of_op_zero hi hop)
  exact Machine.State.engineStep_of_illegal hnoCommand

end Sys2Proof
end

/-! PROOFS. The error codes each command can raise (60_exceptions.md R340). -/
section
namespace Sys2Proof.Machine

variable {s t : State} {i : Instr}

/-! ## The table of error codes -/

/-- The "raised by" column of 60_exceptions.md R340, as a table that computes: command i can raise the code. -/
def mayRaise (i : Instr) : ErrCode → Bool
  | .none | .illegalCmd => false
  | .invalidHeaderMarker | .invalidLength =>
    [.pkttype, .pktsub, .wrhdr, .encsize, .decsize, .smencf, .smdecf, .xorenc, .xordec, .strnext].contains i
  | .invalidBlockChecksum => [.smdecb, .smdecf].contains i
  | .counterMismatch => i == .smdecf
  | .lengthOverflow => [.encsize, .smencf].contains i
  | .blockSize => [.smencb, .smdecb, .smdecf].contains i
  | .bufRange =>
    [.hdrsize, .declen, .pkttype, .pktsub, .wrhdr, .encsize, .decsize, .shift, .smencb, .smdecb, .smencf, .smdecf, .xorenc,
      .xordec, .strfeed, .strnext].contains i
  | .keyInvalid => [.smencb, .smdecb, .smencf, .smdecf].contains i
  | .streamState => [.strfeed, .strnext].contains i
  | .streamOverflow => i == .strfeed

/-! ## The codes of the shared operations -/

section
variable {P : ErrCode → OnError → Prop}

section
variable (hrange : P .bufRange .nothing)
include hrange

theorem State.copyFrame_codes {len : Nat} : (s.copyFrame len).ErrorsIn P :=
  .check hrange <| .bind State.memRead_errorsIn fun _ _ => .ok

variable (hmarker : P .invalidHeaderMarker .nothing) (hlength : P .invalidLength .nothing)
include hmarker hlength

theorem State.framePrologue_codes {a : Nat} {full : Bool} : (s.framePrologue a full).ErrorsIn P := by
  intro e w h
  obtain ⟨rfl, rfl | rfl | rfl⟩ := State.framePrologue_err h
  · exact hrange
  · exact hmarker
  · exact hlength

theorem State.payloadByte_codes {k : Nat} : (s.payloadByte k).ErrorsIn P :=
  .bind (State.framePrologue_codes hrange hmarker hlength) fun _ _ => .check hlength <| .check hrange <|
    .bind State.memByte_errorsIn fun _ _ => .ok

theorem State.xorPass_codes {pass : Nat → List Byte → List Byte} : (s.xorPass pass).ErrorsIn P :=
  .bind (State.framePrologue_codes hrange hmarker hlength) fun _ _ => .bind State.memRead_errorsIn fun _ _ => .ok

end

/-! The checks on a decoded block leave either write (42_simple_modulus.md R220). -/

variable (hcsum : ∀ w, P .invalidBlockChecksum w) (hsize : ∀ w, P .blockSize w)
include hcsum hsize

theorem State.checkBlock_codes {warn : Bool} {p : Plain} : (s.checkBlock warn p).ErrorsIn P := by
  intro e w h
  obtain ⟨-, -, rfl, -⟩ | ⟨-, -, rfl, -⟩ := State.checkBlock_eq_err.mp h
  · exact hcsum w
  · exact hsize w

theorem State.decodeBlocks_codes {k a : Nat} {warn : Bool} : (s.decodeBlocks k a warn).ErrorsIn P := by
  induction k generalizing a warn with
  | zero => exact .ok
  | succ k ih =>
    exact .bind State.memRead_errorsIn fun _ _ => .bind (State.checkBlock_codes hcsum hsize) fun _ _ =>
      .bind ih fun _ _ => .ok

end

/-! ## The codes of each command -/

/-- The code a failing command leaves is one its evaluation can raise (60_exceptions.md R344). -/
theorem State.finish_mayRaise {r : Eval State} (h : s.finish r = .next t) (ht : t.err = true)
    (hr : r.ErrorsIn fun e _ => mayRaise i e) : mayRaise i t.errCode := by
  obtain ⟨e, w, he, rfl⟩ := State.finish_error h ht hr
  exact he

theorem strnext_mayRaise (h : exec .strnext s = .next t) (ht : t.err = true) : mayRaise .strnext t.errCode := by
  refine State.finish_mayRaise h ht (.check rfl ?_)
  cases streamHead s.sb with
  | badMarker | badLength => exact .err rfl
  | frame len => exact .check rfl .ok
  | incomplete => exact .ok

/-- Every check of a command, of its own or of an operation it calls, has a code of the command's row. -/
theorem exec_mayRaise (h : exec i s = .next t) (ht : t.err = true) : mayRaise i t.errCode := by
  cases i with
  | nop | ctrinc | ctrrst | strclose | strreset => exact State.finish_mayRaise (s := s) (r := .ok _) h ht .ok
  | hdrsize => exact State.finish_mayRaise h ht (.check rfl <| .bind State.memByte_errorsIn fun _ _ => .ok)
  | declen =>
    exact State.finish_mayRaise h ht (.check rfl <| .bind State.memByte_errorsIn fun _ _ =>
      .bind State.memByte_errorsIn fun _ _ => .bind State.memByte_errorsIn fun _ _ => .ok)
  | pkttype | pktsub => exact State.finish_mayRaise h ht (State.payloadByte_codes rfl rfl rfl)
  | wrhdr => exact State.finish_mayRaise h ht (.check rfl <| .check rfl <| .check rfl .ok)
  | encsize | decsize =>
    exact State.finish_mayRaise h ht (.bind (State.framePrologue_codes rfl rfl rfl) fun _ _ => .ite .ok (.check rfl .ok))
  | shift =>
    exact State.finish_mayRaise h ht (.ite (.check rfl <| .check rfl <| .bind State.memRead_errorsIn fun _ _ =>
      .bind State.memRead_errorsIn fun _ _ => .ok) .ok)
  | smencb =>
    exact State.finish_mayRaise h ht (.check rfl <| .check rfl <| .check rfl <| .check rfl <|
      .bind State.memRead_errorsIn fun _ _ => .ok)
  | smdecb =>
    exact State.finish_mayRaise h ht (.check rfl <| .check rfl <| .check rfl <| .bind State.memRead_errorsIn fun _ _ =>
      .bind (State.checkBlock_codes (fun _ => rfl) fun _ => rfl) fun _ _ => .ok)
  | smencf =>
    exact State.finish_mayRaise h ht (.bind (State.framePrologue_codes rfl rfl rfl) fun _ _ =>
      .ite (State.copyFrame_codes rfl) <| .check rfl <| .check rfl <| .check rfl <|
      .bind State.memRead_errorsIn fun _ _ => .ok)
  | smdecf =>
    exact State.finish_mayRaise h ht (.bind (State.framePrologue_codes rfl rfl rfl) fun _ _ =>
      .ite (State.copyFrame_codes rfl) <| .check rfl <| .check rfl <|
      .bind (State.decodeBlocks_codes (fun _ => rfl) fun _ => rfl) fun _ _ => .checkWarn rfl <| .checkWarn rfl .ok)
  | xorenc | xordec => exact State.finish_mayRaise h ht (State.xorPass_codes rfl rfl rfl)
  | strfeed =>
    exact State.finish_mayRaise h ht (.check rfl <| .check rfl <| .check rfl <| .bind State.memRead_errorsIn fun _ _ => .ok)
  | strnext => exact strnext_mayRaise h ht

/-! ## The statement -/

/-- Settles O12: the values by evaluation; a failing command's code stands in the table, which is the statement's. -/
theorem errorCodesAndWhoRaisesThem : Obligations.ErrorCodesAndWhoRaisesThem := by
  refine ⟨rfl, fun i s t h ht => ?_⟩
  have hcode := exec_mayRaise h ht
  generalize t.errCode = e at hcode ⊢
  cases e with
  | none | illegalCmd => cases hcode
  | counterMismatch | streamOverflow => exact eq_of_beq hcode
  | _ => exact List.contains_iff_mem.mp hcode

end Sys2Proof.Machine
end

/-! PROOFS. Accesses of the host while BUSY = 1 (70_reset_and_hazards.md R390, R391). -/
section
namespace Sys2Proof.Machine

/-- The registers whose busy read is a hazard, in the spec's words (70_reset_and_hazards.md R391). -/
theorem Reg.readHazard_eq_true {r : Reg} :
    r.readHazard = true ↔ r ∈ [.result0, .result1, .streamLevel, .ectrCount, .dctrCount] := by
  simp [Reg.readHazard, or_assoc]

section
variable {s : State} (hbusy : s.busy = true)
include hbusy

theorem State.hostWrite_reg_busy {r : Reg} (hstatus : r ≠ .status) (hcmd : r ≠ .cmd) (v : Word) :
    s.hostWrite r.offset (.d32 v) = .fault .busyWrite := by
  simp [State.hostWrite_reg, Reg.writableBusy, hbusy, hstatus, hcmd]

theorem State.hostWrite_window_busy {a : Nat} {d : BusData} (hal : a % d.width.bytes = 0)
    (hin : a + d.width.bytes ≤ s.params.bufSize) : s.hostWrite (0x10000 + a) d = .fault .busyWrite := by
  rw [State.hostWrite_window hal hin, if_pos hbusy]

theorem State.hostRead_window_busy {a : Nat} {w : Width} (hal : a % w.bytes = 0) (hin : a + w.bytes ≤ s.params.bufSize) :
    s.hostRead w (0x10000 + a) = .fault .busyRead := by
  rw [State.hostRead_window hal hin, if_pos hbusy]

theorem State.hostRead_reg_busy_hazard {r : Reg} (hr : r.readHazard = true) :
    s.hostRead .w32 r.offset = .fault .busyRead := by
  have hstatus : r ≠ .status := by
    rintro rfl
    cases hr
  rw [State.hostRead_reg, if_neg hstatus, hbusy, hr]
  rfl

/-- A busy read of STATUS shows free values in SSTATE and FRAME_AVAIL only, and draws one. -/
theorem State.hostRead_status_busy :
    ∃ sstate frameAvail, s.hostRead .w32 Reg.status.offset =
      .next { s.respond (.d32 (s.statusWith sstate frameAvail)) with draws := s.draws + 1 } := by
  rw [State.hostRead_reg, if_pos rfl, State.readStatus, if_pos hbusy]
  exact ⟨_, _, rfl⟩

end

/-- A register that is neither STATUS nor a hazard reads as it does while BUSY = 0. -/
theorem State.hostRead_reg_of_not_hazard (s : State) {r : Reg} (hstatus : r ≠ .status) (hr : r.readHazard = false) :
    s.hostRead .w32 r.offset = .next (s.respond (.d32 (s.regValue r))) := by
  simp [State.hostRead_reg, hstatus, hr]

/-! ## The statements -/

/-- Settles O25, from a register's write and a window's write while BUSY = 1. -/
theorem writesWhileBusyAreFaults : Obligations.WritesWhileBusyAreFaults :=
  fun _ hbusy => ⟨fun _ v hstatus hcmd => State.hostWrite_reg_busy hbusy hstatus hcmd v,
    fun _ _ hal hin => State.hostWrite_window_busy hbusy hal hin⟩

/-- Settles O26: a read of a register, of the window, and of STATUS, whose fields but two do not depend on the free
values. -/
theorem readsWhileBusy : Obligations.ReadsWhileBusy := by
  intro s hbusy
  refine ⟨fun r hr => State.hostRead_reg_busy_hazard hbusy (Reg.readHazard_eq_true.mpr hr),
    fun a w hal hin => State.hostRead_window_busy hbusy hal hin, fun r hr => ?_, ?_⟩
  · refine s.hostRead_reg_of_not_hazard (fun h => hr (by simp [h])) ?_
    rw [← Bool.not_eq_true, Reg.readHazard_eq_true]
    exact fun h => hr (List.mem_append_left [Reg.status] h)
  · obtain ⟨sstate, frameAvail, hread⟩ := State.hostRead_status_busy hbusy
    obtain ⟨hbit, hdone, herr, hacc, hwarn, hover⟩ := s.statusWith_flags sstate frameAvail
    exact ⟨_, _, hread, hbit.trans hbusy, hdone, herr, hacc, hwarn, hover, s.statusWith_errCode _ _,
      fun _ => s.statusWith_reserved _ _⟩

end Sys2Proof.Machine
end

/-! PROOFS. Reset: the values of all state, the invariant, and the platform's reset event (70_reset_and_hazards.md R380,
R381). -/
section
namespace Sys2Proof.Machine

/-- EKEY and DKEY of the server (10_state.md R40). -/
theorem resetKeys_of_server {p : Params} (h : p.keyRole = .server) :
    resetEkey p = p.keyTables.s2cEnc ∧ resetDkey p = p.keyTables.c2sDec := by
  simp [resetEkey, resetDkey, h]

/-- EKEY and DKEY of the client (10_state.md R40). -/
theorem resetKeys_of_client {p : Params} (h : p.keyRole = .client) :
    resetEkey p = p.keyTables.c2sEnc ∧ resetDkey p = p.keyTables.s2cDec := by
  simp [resetEkey, resetDkey, h]

/-- No bit of STATUS is set after reset: every flag is clear, there is no code, SSTATE is OPEN, and no frame stands in SB. -/
theorem resetWith_statusWord (p : Params) : (State.resetWith p).statusWord = 0#32 := by
  have hframe : (State.resetWith p).frameAvail = false := rfl
  rw [State.statusWord, hframe]
  simp [State.statusWith, State.resetWith, bit, ErrCode.code, StreamState.code]

theorem resetWith_ctrl (p : Params) : (State.resetWith p).regValue .ctrl = 0#32 := by
  simp [State.regValue, State.resetWith, bit]

/-- Settles O6: every field of the reset state is a closed term, but for the parameters and the keys KEY_ROLE selects. -/
theorem resetValuesOfAllState : Obligations.ResetValuesOfAllState := by
  intro p
  exact ⟨rfl, rfl, resetWith_ctrl p, resetWith_statusWord p, rfl, rfl, rfl, rfl, rfl, rfl, rfl, rfl, rfl, rfl, rfl, rfl, rfl,
    rfl, rfl, rfl, fun _ => rfl, resetKeys_of_server, resetKeys_of_client, rfl⟩

/-- Settles O9: nothing is stored after reset and no flag is set. -/
theorem invariantHoldsAtReset : Obligations.InvariantHoldsAtReset := resetWith_inv

/-- Settles O8: with no engine step due the oldest event is performed, and a reset keeps only the parameters and the model's
records of the host. -/
theorem platformResetAbandonsThePendingCommand : Obligations.PlatformResetAbandonsThePendingCommand :=
  fun _ _ hq h => step_eq_hostEvent hq h

end Sys2Proof.Machine
end
